-- ==== Sys2Proof/Word.lean ====
section
/-! DEFINITION. The bit-vector types of the CORG core (00_scope.md rule R5): one data width, one
register-number width, one word-index width, one ALU-selector width. Nothing else stands here. -/

namespace Sys2Proof

/-- A register, a memory cell, an ALU operand or result, an instruction word: 16 bits (rule R5). -/
abbrev Word := BitVec 16

/-- A general-register number: 3 bits, so every value names one of `r0` to `r7` (rules R5, R11). -/
abbrev RegNum := BitVec 3

/-- A word index: the width of `PC` and of an address of either memory, 8 bits (rules R5, R14). -/
abbrev Index := BitVec 8

/-- The ALU-op selector: 3 bits, numbered as the R-type function code (rules R5, R21). -/
abbrev AluSel := BitVec 3

end Sys2Proof
end

