-- ==== Sys2Proof/Machine/Flags.lean ====
section
/-! DEFINITION. The one flag-like signal of the core, the ALU's `zero` output. There are no architectural
status flags and no condition codes (10_state.md rule R22): no carry, overflow, sign or negative flag. -/

namespace Sys2Proof.Machine

/-- "`zero` is `1` iff `result == 0`", for every operation (40_alu.md rule R69). -/
def zeroOut (result : Word) : Bool := result == 0x0000#16

end Sys2Proof.Machine
end

