-- ==== Sys2Proof/Machine/Alu.lean ====
section
/-! DEFINITION. The arithmetic and logic unit, a pure function of two operands and a selector
(40_alu.md rules R60 to R70). -/

namespace Sys2Proof.Machine

/-- ADD: the sum modulo 65536 (rule R61). -/
def aluAdd (a b : Word) : Word := a + b

/-- SUB: the difference modulo 65536 (rule R62). -/
def aluSub (a b : Word) : Word := a - b

/-- AND, bit by bit (rule R63). -/
def aluAnd (a b : Word) : Word := a &&& b

/-- OR, bit by bit (rule R64). -/
def aluOr (a b : Word) : Word := a ||| b

/-- XOR, bit by bit (rule R65). -/
def aluXor (a b : Word) : Word := a ^^^ b

/-- SLT: 1 if the true signed value of `a` is less than that of `b`, else 0 (rule R66). -/
def aluSlt (a b : Word) : Word := if a.toInt < b.toInt then 0x0001#16 else 0x0000#16

/-- DIV: 0 for a zero divisor, else the signed quotient truncated toward zero and then to 16 bits, so
`-32768 / -1` wraps to `0x8000` (rule R67). -/
def aluDiv (a b : Word) : Word :=
  if b = 0x0000#16 then 0x0000#16 else BitVec.ofInt 16 (Int.tdiv a.toInt b.toInt)

/-- The result for a selector; `111` names no operation and gives 0 (rules R21, R61 to R68). -/
def aluResult (op : AluSel) (a b : Word) : Word :=
  match op with
  | 0b000#3 => aluAdd a b
  | 0b001#3 => aluSub a b
  | 0b010#3 => aluAnd a b
  | 0b011#3 => aluOr a b
  | 0b100#3 => aluXor a b
  | 0b101#3 => aluSlt a b
  | 0b110#3 => aluDiv a b
  | _ => 0x0000#16

/-- The unit: `alu(a, b, op)` gives the result and `zero` (rules R60, R69). -/
def alu (a b : Word) (op : AluSel) : Word × Bool := (aluResult op a b, zeroOut (aluResult op a b))

end Sys2Proof.Machine
end

