-- ==== Sys2Proof/Config.lean ====
section
/-! DEFINITION. The constants of the core (00_scope.md rule R5: "Every size of this hardware is fixed by
the source; none is left to an implementation"). Nothing here is a parameter and nothing is a free value:
the spec's rules fix every value the core produces (notes/assumptions/4.md, 5.md and 6.md name the three
places where the spec calls the value its own decision). -/

namespace Sys2Proof.Config

/-- Words of instruction memory, and so the longest program `load` accepts (rules R5, R141). -/
def imemWords : Nat := 256

/-- Words of data memory (rule R5). -/
def dmemWords : Nat := 256

/-- The index of the first instruction after `load` and after `reset` (rules R28, R144). -/
def entryIndex : Index := 0x00#8

/-- The register JAL links into (rules R5, R75, R124). -/
def linkReg : RegNum := 7#3

/-- What a memory cell that is not listed holds: both memories are all zero after `load` and `reset`
except for the program's own words (rules R28, R32, R38). -/
def emptyCell : Word := 0x0000#16

/-- The least immediate of the 6-bit signed field (rules R48, R59). -/
def immMin : Int := -32

/-- The greatest immediate of the 6-bit signed field (rules R48, R59). -/
def immMax : Int := 31

end Sys2Proof.Config
end

