-- ==== Sys2Proof/Syntax.lean ====
section
/-! DEFINITION. The fourteen instructions of the CORG ISA (30_encoding.md rules R49, R50), one constructor
per row of spec/opcode_table.json, operands in the assembler's order (rule R56). J, JAL and JR carry the
fields the core ignores for their result (rule R53), because those fields still enter the hazard unit's
comparisons (rule R47), so a word and its instruction hold the same information. -/

namespace Sys2Proof

/-- An instruction. Registers are 3-bit numbers; an immediate is the signed number of the assembler
syntax, -32 to 31 (rule R48), checked by `Instr.wf`. -/
inductive Instr where
  /-- `add rd, rs, rt` (rule R111). -/
  | add (rd rs rt : RegNum)
  /-- `sub rd, rs, rt` (rule R112). -/
  | sub (rd rs rt : RegNum)
  /-- `and rd, rs, rt` (rule R113). -/
  | and (rd rs rt : RegNum)
  /-- `or rd, rs, rt` (rule R114). -/
  | or (rd rs rt : RegNum)
  /-- `xor rd, rs, rt` (rule R115). -/
  | xor (rd rs rt : RegNum)
  /-- `slt rd, rs, rt` (rule R116). -/
  | slt (rd rs rt : RegNum)
  /-- `div rd, rs, rt` (rule R117). -/
  | div (rd rs rt : RegNum)
  /-- `addi rt, rs, imm` (rule R118). -/
  | addi (rt rs : RegNum) (imm : Int)
  /-- `lw rt, imm(rs)` (rule R119). -/
  | lw (rt : RegNum) (imm : Int) (rs : RegNum)
  /-- `sw rt, imm(rs)` (rule R120). -/
  | sw (rt : RegNum) (imm : Int) (rs : RegNum)
  /-- `beq rs, rt, imm` (rule R122). -/
  | beq (rs rt : RegNum) (imm : Int)
  /-- `j imm` (rule R123); `rs`, `rt` are the ignored fields of the word (rule R53). -/
  | j (rs rt : RegNum) (imm : Int)
  /-- `jal imm` (rule R124); `rs`, `rt` are the ignored fields of the word (rule R53). -/
  | jal (rs rt : RegNum) (imm : Int)
  /-- `jr rs` (rule R125); `rt`, `imm` are the ignored fields of the word (rule R53). -/
  | jr (rs rt : RegNum) (imm : Int)
deriving DecidableEq, Repr

/-- The canonical `j imm` the assembler writes: "rs = rt = 0" (rule R56). -/
def Instr.jTo (imm : Int) : Instr := .j 0 0 imm

/-- The canonical `jal imm`: "rs = rt = 0" (rule R56). -/
def Instr.jalTo (imm : Int) : Instr := .jal 0 0 imm

/-- The canonical `jr rs`: "rt = 0, imm = 0" (rule R56). -/
def Instr.jrTo (rs : RegNum) : Instr := .jr rs 0 0

/-- The pseudo-instruction `nop`, `add r0, r0, r0` (rule R57). -/
def Instr.nop : Instr := .add 0 0 0

/-- The pseudo-instruction `halt`, the self-branch `beq r0, r0, 0` (rule R58; 90_conflicts.md C3). -/
def Instr.halt : Instr := .beq 0 0 0

end Sys2Proof
end

