-- ==== Sys2Proof/WellFormed.lean ====
section
/-! DEFINITION. What makes an instruction encodable (the immediate's range), what makes it canonical (the
ignored fields zero, as the assembler writes them), and what makes a program fit the instruction memory. -/

namespace Sys2Proof

/-- The range check of an immediate: -32 ≤ imm ≤ 31 (30_encoding.md rules R48, R59). -/
def immInRange (imm : Int) : Bool :=
  decide (Config.immMin ≤ imm) && decide (imm ≤ Config.immMax)

/-- An instruction is well-formed when its immediate, if it has one, fits the 6-bit signed field. Every
register number is 3 bits and so is always in range (rule R11). -/
def Instr.wf : Instr → Bool
  | .add _ _ _ => true
  | .sub _ _ _ => true
  | .and _ _ _ => true
  | .or _ _ _ => true
  | .xor _ _ _ => true
  | .slt _ _ _ => true
  | .div _ _ _ => true
  | .addi _ _ imm => immInRange imm
  | .lw _ imm _ => immInRange imm
  | .sw _ imm _ => immInRange imm
  | .beq _ _ imm => immInRange imm
  | .j _ _ imm => immInRange imm
  | .jal _ _ imm => immInRange imm
  | .jr _ _ imm => immInRange imm

/-- An instruction is canonical when the fields it does not use are zero, which is what the assembler
writes (rules R53, R56). The core runs the others too, with the same architectural effect. -/
def Instr.canonical : Instr → Bool
  | .add _ _ _ => true
  | .sub _ _ _ => true
  | .and _ _ _ => true
  | .or _ _ _ => true
  | .xor _ _ _ => true
  | .slt _ _ _ => true
  | .div _ _ _ => true
  | .addi _ _ _ => true
  | .lw _ _ _ => true
  | .sw _ _ _ => true
  | .beq _ _ _ => true
  | .j rs rt _ => rs == 0 && rt == 0
  | .jal rs rt _ => rs == 0 && rt == 0
  | .jr _ rt imm => rt == 0 && imm == 0

/-- A program fits when it has at most 256 words (70_reset_and_hazards.md rule R141). -/
def programFits (words : List Word) : Bool := decide (words.length ≤ Config.imemWords)

end Sys2Proof
end

