-- ==== Sys2Proof/Decode.lean ====
section
/-! DEFINITION. Instruction words and instructions (30_encoding.md). `decode` is total on all 65536 words
and rejects the reserved ones by name; `encode` writes the word of an instruction from the same two
formats (rules R45, R46). -/

namespace Sys2Proof

/-- `op = instr[15:12]` (rule R47). -/
def opField (w : Word) : BitVec 4 := w.extractLsb' 12 4

/-- `rs = instr[11:9]` (rule R47). -/
def rsField (w : Word) : RegNum := w.extractLsb' 9 3

/-- `rt = instr[8:6]` (rule R47). -/
def rtField (w : Word) : RegNum := w.extractLsb' 6 3

/-- `rd = instr[5:3]` (rule R47). -/
def rdField (w : Word) : RegNum := w.extractLsb' 3 3

/-- `func = instr[2:0]` (rule R47). -/
def funcField (w : Word) : BitVec 3 := w.extractLsb' 0 3

/-- `imm6 = instr[5:0]` (rule R47). -/
def imm6Field (w : Word) : BitVec 6 := w.extractLsb' 0 6

/-- The immediate as the signed number of the assembler syntax, -32 to 31 (rule R48). -/
def immField (w : Word) : Int := (imm6Field w).toInt

/-- Why a word is no instruction: the two kinds of reserved encoding. -/
inductive Reserved where
  /-- One of the opcodes `1000` to `1111` (rule R51). -/
  | opcode (op : BitVec 4)
  /-- `op = 0000` with `func = 111` (rule R52). -/
  | func
deriving DecidableEq, Repr

/-- The R-type instruction of a function code (rule R50), or the reserved code `111` (rule R52). -/
def decodeRType (w : Word) : Except Reserved Instr :=
  match funcField w with
  | 0b000#3 => .ok (.add (rdField w) (rsField w) (rtField w))
  | 0b001#3 => .ok (.sub (rdField w) (rsField w) (rtField w))
  | 0b010#3 => .ok (.and (rdField w) (rsField w) (rtField w))
  | 0b011#3 => .ok (.or (rdField w) (rsField w) (rtField w))
  | 0b100#3 => .ok (.xor (rdField w) (rsField w) (rtField w))
  | 0b101#3 => .ok (.slt (rdField w) (rsField w) (rtField w))
  | 0b110#3 => .ok (.div (rdField w) (rsField w) (rtField w))
  | _ => .error .func

/-- The instruction of a word (rules R49, R50), or the name of the reserved encoding it is
(rules R51, R52). -/
def decode (w : Word) : Except Reserved Instr :=
  match opField w with
  | 0b0000#4 => decodeRType w
  | 0b0001#4 => .ok (.addi (rtField w) (rsField w) (immField w))
  | 0b0010#4 => .ok (.lw (rtField w) (immField w) (rsField w))
  | 0b0011#4 => .ok (.sw (rtField w) (immField w) (rsField w))
  | 0b0100#4 => .ok (.beq (rsField w) (rtField w) (immField w))
  | 0b0101#4 => .ok (.j (rsField w) (rtField w) (immField w))
  | 0b0110#4 => .ok (.jal (rsField w) (rtField w) (immField w))
  | 0b0111#4 => .ok (.jr (rsField w) (rtField w) (immField w))
  | op => .error (.opcode op)

/-- The low six bits of an immediate's two's-complement form (rule R56). -/
def imm6 (imm : Int) : BitVec 6 := BitVec.ofInt 6 imm

/-- The R format `{0000, rs, rt, rd, func}` (rule R45). -/
def encodeR (rs rt rd : RegNum) (func : BitVec 3) : Word := 0b0000#4 ++ rs ++ rt ++ rd ++ func

/-- The I format `{op, rs, rt, imm6}` (rule R46). -/
def encodeI (op : BitVec 4) (rs rt : RegNum) (imm : Int) : Word := op ++ rs ++ rt ++ imm6 imm

/-- The word of an instruction (rules R45, R46, R49, R50, R56). -/
def encode : Instr → Word
  | .add rd rs rt => encodeR rs rt rd 0b000#3
  | .sub rd rs rt => encodeR rs rt rd 0b001#3
  | .and rd rs rt => encodeR rs rt rd 0b010#3
  | .or rd rs rt => encodeR rs rt rd 0b011#3
  | .xor rd rs rt => encodeR rs rt rd 0b100#3
  | .slt rd rs rt => encodeR rs rt rd 0b101#3
  | .div rd rs rt => encodeR rs rt rd 0b110#3
  | .addi rt rs imm => encodeI 0b0001#4 rs rt imm
  | .lw rt imm rs => encodeI 0b0010#4 rs rt imm
  | .sw rt imm rs => encodeI 0b0011#4 rs rt imm
  | .beq rs rt imm => encodeI 0b0100#4 rs rt imm
  | .j rs rt imm => encodeI 0b0101#4 rs rt imm
  | .jal rs rt imm => encodeI 0b0110#4 rs rt imm
  | .jr rs rt imm => encodeI 0b0111#4 rs rt imm

/-- The table's word of `nbits` bits numbered from the least significant bit, as an instruction word. An
instruction is one 16-bit cell and a cell has no bytes to lay out (rules R34, R44). -/
def tableWord (nbits w : Nat) : Word := BitVec.ofNat 16 (w % 2 ^ nbits)

/-- The instruction the decoder reads from a word of the opcode table, none for a reserved word. -/
def decodeTableWord (nbits w : Nat) : Option Instr := (decode (tableWord nbits w)).toOption

/-- The first reserved word of a program, with its index and its name: what a user who does not want a
claim to rest on the reserved words' no-operation reading checks a program for
(93_implementation_defined.md U1, U2). The core itself runs such a word (rules R51, R52). -/
def firstReserved : List Word → Nat → Option (Nat × Word × Reserved)
  | [], _ => none
  | w :: ws, i =>
    match decode w with
    | .ok _ => firstReserved ws (i + 1)
    | .error r => some (i, w, r)

end Sys2Proof
end

