-- ==== Sys2Proof/Machine/State.lean ====
section
/-! DEFINITION. The complete state of the core (10_state.md rule R10) as plain data: PC, the register file,
the two memories, the cycle counter and the four pipeline latches, with the value each has after reset
(rule R28). The hazard signals, `wb_data` and the other values of one clock are not state (rule R26). -/

namespace Sys2Proof.Machine

/-- Why a step faults: there is no reason. "The engine cannot fault during `tick()`" and the core raises
no exception (60_exceptions.md rule R128), so this type is empty: nobody raises it, and a fault could not
be written down. Neither safe nor unsafe: it cannot occur. -/
inductive Fault
deriving DecidableEq, Repr

/-- Why the model turns an input away. -/
inductive Refusal where
  /-- Raised by an arm of `exec` for an instruction that has no meaning yet; no arm is in that case. Safe:
  a refusal proves nothing about the hardware. -/
  | notModelled (mnemonic : String)
  /-- Raised by the host operation `load` for a program of more than 256 words, the source's
  `ProgramTooLargeError` (70_reset_and_hazards.md rule R141); no step raises it. Safe: it is the answer the
  spec gives, and no state changes. -/
  | programTooLarge (words : Nat)
deriving DecidableEq, Repr

/-- The register file: eight 16-bit cells (rule R11). Read and written through `RegFile.read` and
`RegFile.write` only, where register 0 is hardwired (rule R12). -/
structure RegFile where
  cells : Vector Word 8
deriving DecidableEq, Repr

/-- A memory of 16-bit cells by word index, as the list of its cells that are not zero, by rising index
(20_memory.md rules R31, R32, R34; the form is `Memory.wf`). A cell is never split into bytes. -/
structure Memory where
  cells : List (Nat × Word)
deriving DecidableEq, Repr

/-- The control vector, as eight named bits (10_state.md rule R20). -/
structure Ctrl where
  /-- `dest` is the `rd` field; otherwise the `rt` field. -/
  regDst : Bool
  /-- ALU operand B is the immediate. With `jump` it marks JR. -/
  aluSrc : Bool
  /-- WB writes `mem_data`; otherwise `alu_result`. -/
  memToReg : Bool
  /-- The instruction writes register `dest`. With `jump` it marks JAL. -/
  regWrite : Bool
  /-- The instruction reads `DMem`. -/
  memRead : Bool
  /-- The instruction writes `DMem`. -/
  memWrite : Bool
  /-- Conditional branch, taken when the ALU's `zero` is 1. -/
  branch : Bool
  /-- Unconditional control transfer. -/
  jump : Bool
deriving DecidableEq, Repr

/-- The latch between IF and ID (rule R16). -/
structure IfId where
  pcPlus1 : Index
  instr : Word
deriving DecidableEq, Repr

/-- The latch between ID and EX (rule R17). -/
structure IdEx where
  pc : Index
  rsVal : Word
  rtVal : Word
  imm : Word
  rs : RegNum
  rt : RegNum
  dest : RegNum
  ctrl : Ctrl
  aluOp : AluSel
deriving DecidableEq, Repr

/-- The latch between EX and MEM (rule R18). No stage reads `branchTarget` or `zero`; the host sees them. -/
structure ExMem where
  branchTarget : Index
  zero : Bool
  aluResult : Word
  storeData : Word
  dest : RegNum
  ctrl : Ctrl
deriving DecidableEq, Repr

/-- The latch between MEM and WB (rule R19). -/
structure MemWb where
  memData : Word
  aluResult : Word
  dest : RegNum
  ctrl : Ctrl
deriving DecidableEq, Repr

/-- The whole state (rule R10). -/
structure State where
  /-- `PC`, the index the IF stage fetches from in the coming clock (rule R14). -/
  pc : Index
  /-- `RegFile[0..7]` (rule R11). -/
  regs : RegFile
  /-- `IMem[0..255]`, written only by the host's `load` (rule R31). -/
  imem : Memory
  /-- `DMem[0..255]` (rule R32). -/
  dmem : Memory
  /-- The clocks since the last `load` or `reset`, unbounded (rule R15). -/
  cycle : Nat
  ifId : IfId
  idEx : IdEx
  exMem : ExMem
  memWb : MemWb
deriving DecidableEq, Repr

/-- The zero control vector, that of a bubble and of a reserved word (rules R20, R77). -/
def Ctrl.none : Ctrl :=
  { regDst := false, aluSrc := false, memToReg := false, regWrite := false,
    memRead := false, memWrite := false, branch := false, jump := false }

/-- The `IF_ID` bubble: both fields zero (rule R16). -/
def IfId.bubble : IfId := { pcPlus1 := 0#8, instr := 0x0000#16 }

/-- The `ID_EX` bubble: all nine fields zero (rule R17). -/
def IdEx.bubble : IdEx :=
  { pc := 0#8, rsVal := 0#16, rtVal := 0#16, imm := 0#16, rs := 0#3, rt := 0#3, dest := 0#3,
    ctrl := Ctrl.none, aluOp := 0#3 }

/-- The `EX_MEM` bubble: all six fields zero, `zero` among them (rules R18, R28). -/
def ExMem.bubble : ExMem :=
  { branchTarget := 0#8, zero := false, aluResult := 0#16, storeData := 0#16, dest := 0#3,
    ctrl := Ctrl.none }

/-- The `MEM_WB` bubble: all four fields zero (rule R19). -/
def MemWb.bubble : MemWb := { memData := 0#16, aluResult := 0#16, dest := 0#3, ctrl := Ctrl.none }

/-- All eight registers zero (rule R28). -/
def RegFile.zero : RegFile := { cells := Vector.replicate 8 0x0000#16 }

/-- A memory with every cell zero (rule R28). -/
def Memory.empty : Memory := { cells := [] }

/-- The core right after reset (rule R28): everything zero, the four latches bubbles, `PC` at the entry
index. No `load` has been performed, so `IMem` is zero too (rule R28, 92_eei_decisions.md D11). -/
def State.reset : State :=
  { pc := Config.entryIndex, regs := RegFile.zero, imem := Memory.empty, dmem := Memory.empty,
    cycle := 0, ifId := IfId.bubble, idEx := IdEx.bubble, exMem := ExMem.bubble,
    memWb := MemWb.bubble }

end Sys2Proof.Machine
end

