-- ==== Sys2Proof/Machine/Operands.lean ====
section
/-! DEFINITION. Operand forms: the extensions and truncations of 00_scope.md rule R7, the one immediate form,
the one data address form, and the two forwarding multiplexers with the ALU's B operand (43_pipeline_controller.md
rule R93). -/

namespace Sys2Proof.Machine

/-- `sext_16(v)`: bit 5 of a 6-bit value copied into bits 15..6 (rules R7, R48). -/
def sext16 (v : BitVec 6) : Word := v.signExtend 16

/-- `zext_16(v)`: an 8-bit value extended with zeros (rule R7). -/
def zext16 (v : Index) : Word := v.setWidth 16

/-- `trunc_8(v)`: the low eight bits (rule R7). -/
def trunc8 (v : Word) : Index := v.extractLsb' 0 8

/-- The 16-bit immediate operand of an assembler immediate (rule R48). -/
def immWord (imm : Int) : Word := BitVec.ofInt 16 imm

/-- `(PC + 1) AND 0xFF` (rules R14, R37). -/
def nextIndex (pc : Index) : Index := pc + 1#8

/-- `(pc + imm) AND 0xFF`, the branch and jump target (rules R37, R94). -/
def pcRelative (pc : Index) (imm : Word) : Index := trunc8 (zext16 pc + imm)

/-- JAL's return address `zext_16(pc) + 1`, at 16 bits and not masked (rule R95). -/
def returnAddress (pc : Index) : Word := zext16 pc + 1#16

/-- `addr = alu_result AND 0xFF`, the data address (rules R36, R92). -/
def dataAddress (sum : Word) : Index := trunc8 sum

/-- The forwarding multiplexer of one operand: `10` takes `EX_MEM.alu_result`, `01` takes `wb_data`, and
otherwise the latched register value (rules R85, R93). -/
def forwardMux (sel : BitVec 2) (exMemResult wbData latched : Word) : Word :=
  if sel = 0b10#2 then exMemResult else if sel = 0b01#2 then wbData else latched

/-- `alu_b = AluSrc ? imm : reg_b` (rule R93). -/
def aluOperandB (ctrl : Ctrl) (imm regB : Word) : Word := if ctrl.aluSrc then imm else regB

end Sys2Proof.Machine
end

