-- ==== Sys2Proof/Machine/Control.lean ====
section
/-! DEFINITION. The control decoder (41_control_decoder.md): the control table of rule R72, the ALU-op
selection of rule R73, the destination of rules R74 and R75, and the whole decode function of rule R79 on
instruction words. -/

namespace Sys2Proof.Machine

/-- R-type: `RegDst`, `RegWrite` (rule R72). -/
def Ctrl.rType : Ctrl := { Ctrl.none with regDst := true, regWrite := true }

/-- ADDI: `AluSrc`, `RegWrite` (rule R72). -/
def Ctrl.addi : Ctrl := { Ctrl.none with aluSrc := true, regWrite := true }

/-- LW: `AluSrc`, `MemToReg`, `RegWrite`, `MemRead` (rule R72). -/
def Ctrl.lw : Ctrl :=
  { Ctrl.none with aluSrc := true, memToReg := true, regWrite := true, memRead := true }

/-- SW: `AluSrc`, `MemWrite` (rule R72). -/
def Ctrl.sw : Ctrl := { Ctrl.none with aluSrc := true, memWrite := true }

/-- BEQ: `Branch` (rule R72). -/
def Ctrl.beq : Ctrl := { Ctrl.none with branch := true }

/-- J: `Jump` (rule R72). -/
def Ctrl.j : Ctrl := { Ctrl.none with jump := true }

/-- JAL: `RegWrite`, `Jump` (rule R72). -/
def Ctrl.jal : Ctrl := { Ctrl.none with regWrite := true, jump := true }

/-- JR: `AluSrc`, `Jump` (rule R72). -/
def Ctrl.jr : Ctrl := { Ctrl.none with aluSrc := true, jump := true }

/-- The control vector as a number, `RegDst` at bit 0 and `Jump` at bit 7 (rules R20, R78). -/
def Ctrl.toBits (c : Ctrl) : BitVec 8 :=
  BitVec.ofBool c.jump ++ BitVec.ofBool c.branch ++ BitVec.ofBool c.memWrite
    ++ BitVec.ofBool c.memRead ++ BitVec.ofBool c.regWrite ++ BitVec.ofBool c.memToReg
    ++ BitVec.ofBool c.aluSrc ++ BitVec.ofBool c.regDst

/-- JR, as EX recognises it: "`AluSrc = 1` together with `Jump = 1`" (rule R76). -/
def Ctrl.isJr (c : Ctrl) : Bool := c.jump && c.aluSrc

/-- JAL, as EX recognises it: `Jump` together with `RegWrite` (rule R76). -/
def Ctrl.isJal (c : Ctrl) : Bool := c.jump && c.regWrite

/-- The row of the control table for a primary opcode, zero for a reserved one (rules R72, R77). -/
def controlRow (op : BitVec 4) : Ctrl :=
  match op with
  | 0b0000#4 => Ctrl.rType
  | 0b0001#4 => Ctrl.addi
  | 0b0010#4 => Ctrl.lw
  | 0b0011#4 => Ctrl.sw
  | 0b0100#4 => Ctrl.beq
  | 0b0101#4 => Ctrl.j
  | 0b0110#4 => Ctrl.jal
  | 0b0111#4 => Ctrl.jr
  | _ => Ctrl.none

/-- What the ID stage takes from an instruction word: the fields it latches and the decoder's outputs
(rules R71, R98). -/
structure Issue where
  rs : RegNum
  rt : RegNum
  imm : Word
  dest : RegNum
  ctrl : Ctrl
  aluOp : AluSel
deriving DecidableEq, Repr

/-- Whether a word is a reserved encoding: `op >= 1000`, or `op = 0000` with `func = 111` (rule R79). -/
def isReserved (w : Word) : Bool :=
  decide (0b1000#4 ≤ opField w) || (opField w == 0b0000#4 && funcField w == 0b111#3)

/-- The complete decode function of the ID stage, on any word (rule R79). -/
def controlDecode (w : Word) : Issue :=
  if isReserved w then
    { rs := rsField w, rt := rtField w, imm := sext16 (imm6Field w), dest := 0b000#3,
      ctrl := Ctrl.none, aluOp := 0b000#3 }
  else
    { rs := rsField w, rt := rtField w, imm := sext16 (imm6Field w),
      dest := if opField w = 0b0110#4 then Config.linkReg
        else if (controlRow (opField w)).regDst then rdField w else rtField w,
      ctrl := controlRow (opField w),
      aluOp := if opField w = 0b0000#4 then funcField w
        else if opField w = 0b0100#4 then 0b001#3 else 0b000#3 }

end Sys2Proof.Machine
end

