-- ==== Sys2Proof/Machine/Hazard.lean ====
section
/-! DEFINITION. The hazard detection and forwarding unit (42_hazard_forwarding.md): combinational functions of
the latches before the clock edge. -/

namespace Sys2Proof.Machine

/-- The load-use stall: the instruction in EX is a load and its `rt` field equals the `rs` or the `rt` field
of the instruction in ID, used or not, register 0 included (rule R81). -/
def loadUse (idEx : IdEx) (rs rt : RegNum) : Bool :=
  idEx.ctrl.memRead && (idEx.rt == rs || idEx.rt == rt)

/-- The stall signal of a state: the condition with the fields of the word in `IF_ID` (rule R81). -/
def State.stall (s : State) : Bool :=
  loadUse s.idEx (rsField s.ifId.instr) (rtField s.ifId.instr)

/-- The forward selector of a register number: `10` from EX/MEM, with priority, `01` from MEM/WB, `00` for
no forward; register 0 is never forwarded (rules R83, R84). -/
def forwardSel (exMem : ExMem) (memWb : MemWb) (r : RegNum) : BitVec 2 :=
  if exMem.ctrl.regWrite ∧ exMem.dest ≠ 0#3 ∧ exMem.dest = r then 0b10#2
  else if memWb.ctrl.regWrite ∧ memWb.dest ≠ 0#3 ∧ memWb.dest = r then 0b01#2
  else 0b00#2

/-- `forwardA`, for operand A (rule R83). -/
def State.forwardA (s : State) : BitVec 2 := forwardSel s.exMem s.memWb s.idEx.rs

/-- `forwardB`, for the `rt` register (rule R84). -/
def State.forwardB (s : State) : BitVec 2 := forwardSel s.exMem s.memWb s.idEx.rt

/-- `pc_src = (Branch AND zero) OR Jump`, with the ALU's `zero` of this clock (rules R87, R96). -/
def redirects (ctrl : Ctrl) (zero : Bool) : Bool := (ctrl.branch && zero) || ctrl.jump

end Sys2Proof.Machine
end

