-- ==== Sys2Proof/Machine/Ops.lean ====
section
/-! DEFINITION. The named operations over registers and memory. TAKING AN EXCEPTION, and returning from one,
has no operation here because the hardware has neither: "The core raises no synchronous exception, ever"
(60_exceptions.md rule R128), there are no interrupts (rule R130), no trap entry (rule R132), no trap return
(rule R133) and one mode (rule R135). -/

namespace Sys2Proof.Machine

/-- The cell of a memory list at an index; an unlisted cell is zero (rules R28, R32). -/
def cellAt : List (Nat × Word) → Nat → Word
  | [], _ => Config.emptyCell
  | (b, v) :: rest, a => if b = a then v else cellAt rest a

/-- The list with the cell at an index set, in the canonical form: rising indices, no zero cell listed. -/
def setCell : List (Nat × Word) → Nat → Word → List (Nat × Word)
  | [], a, v => if v = Config.emptyCell then [] else [(a, v)]
  | (b, w) :: rest, a, v =>
    if a < b then (if v = Config.emptyCell then (b, w) :: rest else (a, v) :: (b, w) :: rest)
    else if a = b then (if v = Config.emptyCell then rest else (a, v) :: rest)
    else (b, w) :: setCell rest a v

/-- Whether the indices rise strictly from at least `lo` to at most 255 and no listed cell is zero. -/
def cellsCanonical : Nat → List (Nat × Word) → Bool
  | _, [] => true
  | lo, (b, v) :: rest =>
    decide (lo ≤ b) && decide (b < Config.dmemWords) && decide (v ≠ Config.emptyCell)
      && cellsCanonical (b + 1) rest

/-- The canonical form of a memory. Two canonical memories with the same cells are equal. -/
def Memory.wf (m : Memory) : Bool := cellsCanonical 0 m.cells

/-- `MemRead(addr, 1)`: the whole 16-bit cell, with no side effect (rules R33, R39). -/
def Memory.read (m : Memory) (a : Index) : Word := cellAt m.cells a.toNat

/-- `MemWrite(addr, 1, v)`: that cell and no other (rules R33, R39). -/
def Memory.write (m : Memory) (a : Index) (v : Word) : Memory :=
  { cells := setCell m.cells a.toNat v }

/-- The memory that holds a list of words from an index upward and is zero elsewhere (rule R141). Words
past the last index are not reached: `load` refuses a list that long. -/
def Memory.ofWords : List Word → Nat → Memory → Memory
  | [], _, m => m
  | w :: ws, i, m => Memory.ofWords ws (i + 1) (m.write (BitVec.ofNat 8 i) w)

/-- `x[i]`: the stored cell, but 0 for register 0, "hardwired to 0: reads return 0" (rule R12). -/
def RegFile.read (r : RegFile) (k : RegNum) : Word :=
  if k = 0#3 then 0x0000#16 else r.cells.get k.toFin

/-- `x[i] <- v`: the cell is set, but for register 0 "writes are silently dropped" (rule R12). -/
def RegFile.write (r : RegFile) (k : RegNum) (v : Word) : RegFile :=
  if k = 0#3 then r else { cells := r.cells.set k.toFin v }

end Sys2Proof.Machine
end

