-- ==== Sys2Proof/Machine/Pipeline.lean ====
section
/-! DEFINITION. The pipeline controller (43_pipeline_controller.md): the five stages as functions of the state
before the clock edge, rules R91 to R103, and their commit, rule R104. `clock` is the shared operation of every
instruction's meaning: the whole clock in which ID holds that instruction. -/

namespace Sys2Proof.Machine

/-- `wb_data` of a latch: the loaded word under `MemToReg`, else the ALU result (rule R91). -/
def wbData (l : MemWb) : Word := if l.ctrl.memToReg then l.memData else l.aluResult

/-- `wb_enable` of a latch: `RegWrite` and a destination other than register 0 (rule R91). -/
def wbEnable (l : MemWb) : Bool := l.ctrl.regWrite && l.dest != 0#3

/-- WB: the register file after the write-back of a latch (rule R91). -/
def writeBack (l : MemWb) (r : RegFile) : RegFile :=
  if wbEnable l then r.write l.dest (wbData l) else r

/-- MEM's latch output: the cell as it was before the edge when `MemRead`, else 0 (rule R92). -/
def memAccess (l : ExMem) (m : Memory) : MemWb :=
  { memData := if l.ctrl.memRead then m.read (dataAddress l.aluResult) else 0x0000#16,
    aluResult := l.aluResult, dest := l.dest, ctrl := l.ctrl }

/-- MEM's effect on the data memory: the store data at the masked address when `MemWrite` (rule R92). -/
def memStore (l : ExMem) (m : Memory) : Memory :=
  if l.ctrl.memWrite then m.write (dataAddress l.aluResult) l.storeData else m

/-- Operand A: the up-to-date value of register `rs` of the instruction in EX (rule R93). -/
def State.operandA (s : State) : Word :=
  forwardMux s.forwardA s.exMem.aluResult (wbData s.memWb) s.idEx.rsVal

/-- `reg_b`: the up-to-date value of register `rt` of the instruction in EX (rule R93). -/
def State.regB (s : State) : Word :=
  forwardMux s.forwardB s.exMem.aluResult (wbData s.memWb) s.idEx.rtVal

/-- The ALU's two outputs in this clock (rule R94). -/
def State.aluOut (s : State) : Word × Bool :=
  alu s.operandA (aluOperandB s.idEx.ctrl s.idEx.imm s.regB) s.idEx.aluOp

/-- `branch_target` of the instruction in EX (rule R94). -/
def State.branchTarget (s : State) : Index := pcRelative s.idEx.pc s.idEx.imm

/-- `pc_src`: the instruction in EX redirects `PC` (rule R96). -/
def State.pcSrc (s : State) : Bool := redirects s.idEx.ctrl s.aluOut.2

/-- Where it redirects to: for JR the low eight bits of operand A, else the branch target (rule R96). -/
def State.target (s : State) : Index :=
  if s.idEx.ctrl.isJr then trunc8 s.operandA else s.branchTarget

/-- EX's latch output, with JAL's return address in place of the ALU result (rules R95, R97). -/
def State.exOutput (s : State) : ExMem :=
  { branchTarget := s.branchTarget, zero := s.aluOut.2,
    aluResult := if s.idEx.ctrl.isJal then returnAddress s.idEx.pc else s.aluOut.1,
    storeData := s.regB, dest := s.idEx.dest, ctrl := s.idEx.ctrl }

/-- The index of the instruction in ID, `(pc_plus_1 - 1) AND 0xFF` (rule R100). -/
def State.idIndex (s : State) : Index := s.ifId.pcPlus1 - 1#8

/-- The register file ID reads: that after this clock's write-back, so a register being written reads as
the value written (rule R99). -/
def State.regsAfterWb (s : State) : RegFile := writeBack s.memWb s.regs

/-- ID's latch output for an instruction that is neither held nor discarded (rules R99 to R101). -/
def State.idOutput (s : State) (d : Issue) : IdEx :=
  { pc := s.idIndex, rsVal := s.regsAfterWb.read d.rs, rtVal := s.regsAfterWb.read d.rt, imm := d.imm,
    rs := d.rs, rt := d.rt, dest := d.dest, ctrl := d.ctrl, aluOp := d.aluOp }

/-- IF's latch output for a fetch that is neither held nor discarded (rule R102). -/
def State.fetched (s : State) : IfId := { pcPlus1 := nextIndex s.pc, instr := s.imem.read s.pc }

/-- One whole clock of the core in which ID holds an instruction with the decoder outputs `d`: all five
stages on the state before the edge, and their commit (rules R90 to R104). A redirect in EX discards the
instruction in ID and the fetch, and wins over a stall (rules R87, R88); a stall holds them (rule R82). -/
def clock (d : Issue) (s : State) : State :=
  let flush := s.pcSrc
  let hold := loadUse s.idEx d.rs d.rt
  { pc := if flush then s.target else if hold then s.pc else nextIndex s.pc,
    regs := s.regsAfterWb,
    imem := s.imem,
    dmem := memStore s.exMem s.dmem,
    cycle := s.cycle + 1,
    ifId := if flush then IfId.bubble else if hold then s.ifId else s.fetched,
    idEx := if flush || hold then IdEx.bubble else s.idOutput d,
    exMem := s.exOutput,
    memWb := memAccess s.exMem s.dmem }

end Sys2Proof.Machine
end

