-- ==== Sys2Proof/Machine/Architecture.lean ====
section
/-! DEFINITION. The architectural level (00_scope.md rule R6 (b)): the effect of one instruction on `PC`,
`RegFile` and `DMem` as if instructions ran one at a time, as data, and what the whole state of the pipeline
means at that level: `settled`, the registers and data once every instruction past ID has completed. -/

namespace Sys2Proof.Machine

/-- What an architectural rule sees: `pc` is the index of the instruction being executed (rule R7). -/
structure Arch where
  pc : Index
  regs : RegFile
  dmem : Memory
deriving DecidableEq, Repr

/-- What one instruction does: the index of the next instruction, the register it writes with its value,
and the data cell it writes with its value. Everything it does not name is unchanged. -/
structure Effect where
  next : Index
  reg : Option (RegNum × Word)
  mem : Option (Index × Word)
deriving DecidableEq, Repr

/-- A register write that may be absent; one to register 0 does nothing (rule R12). -/
def writeReg? (w : Option (RegNum × Word)) (r : RegFile) : RegFile :=
  match w with
  | some (k, v) => r.write k v
  | none => r

/-- A data write that may be absent. -/
def writeMem? (w : Option (Index × Word)) (m : Memory) : Memory :=
  match w with
  | some (a, v) => m.write a v
  | none => m

/-- The architectural state after an effect. -/
def Effect.apply (e : Effect) (a : Arch) : Arch :=
  { pc := e.next, regs := writeReg? e.reg a.regs, dmem := writeMem? e.mem a.dmem }

/-- The common form of an R-type instruction: `x[rd] <- v; pc <- (pc + 1)[7:0]` (rule R110), and of every
other instruction that writes one register and goes on. -/
def Effect.register (a : Arch) (k : RegNum) (v : Word) : Effect :=
  { next := nextIndex a.pc, reg := some (k, v), mem := none }

/-- A control transfer that writes nothing: `pc <- t` (rule R7). -/
def Effect.goto (t : Index) : Effect := { next := t, reg := none, mem := none }

/-- The effective address `(x[rs] + sext_16(imm6)) AND 0xFF` (rules R36, R121). -/
def effectiveAddress (a : Arch) (rs : RegNum) (imm : Int) : Index :=
  dataAddress (aluAdd (a.regs.read rs) (immWord imm))

/-- A reserved word: nothing but `pc <- (pc + 1)[7:0]` (rules R51, R52). -/
def reservedEffect (a : Arch) : Effect := Effect.goto (nextIndex a.pc)

/-- The data memory once every instruction past ID has completed: the store in MEM, then that in EX. -/
def State.settledDMem (s : State) : Memory := memStore s.exOutput (memStore s.exMem s.dmem)

/-- The registers once every instruction past ID has completed: the write-backs of the instructions in WB,
MEM and EX, in program order (rules R27 item 3, R91, R92). -/
def State.settledRegs (s : State) : RegFile :=
  writeBack (memAccess s.exOutput (memStore s.exMem s.dmem))
    (writeBack (memAccess s.exMem s.dmem) s.regsAfterWb)

/-- What the instruction in ID finds, at the architectural level: its own index, and the registers and data
as every older instruction leaves them (rule R150). -/
def State.archBefore (s : State) : Arch :=
  { pc := s.idIndex, regs := s.settledRegs, dmem := s.settledDMem }

/-- What the instruction that has just gone from ID to EX leaves, at the architectural level: the index of
the next instruction to execute, and the registers and data once it has completed (rule R150). -/
def State.archAfter (s : State) : Arch :=
  { pc := if s.pcSrc then s.target else nextIndex s.idEx.pc,
    regs := s.settledRegs, dmem := s.settledDMem }

end Sys2Proof.Machine
end

