-- ==== Sys2Proof/Machine/RType.lean ====
section
/-! DEFINITION. The seven R-type instructions (44_rtype_instructions.md). For each: its meaning, the whole clock
in which ID holds it (its decoder outputs by rule R110, everything else by the shared `clock`), and its
architectural effect, the rule's own pseudocode. -/

namespace Sys2Proof.Machine

/-- The decoder outputs of an R-type instruction: control vector `0x09`, `alu_op = func`, `dest = rd`
(rules R72 to R74, R110). ID forms the immediate for every word; here it is that of `{rd, func}` and no
R-type instruction uses it (rule R48). -/
def rTypeIssue (func : BitVec 3) (rd rs rt : RegNum) : Issue :=
  { rs := rs, rt := rt, imm := sext16 (rd ++ func), dest := rd, ctrl := Ctrl.rType, aluOp := func }

/-- ADD in ID: control `0x09`, `alu_op = 000`, `dest = rd` (rules R110, R111). -/
def execAdd (rd rs rt : RegNum) (s : State) : Host.Outcome State Fault Refusal :=
  .next (clock (rTypeIssue 0b000#3 rd rs rt) s)

/-- ADD: `x[rd] <- add(x[rs], x[rt]); pc <- (pc + 1)[7:0]` (rules R61, R111). -/
def archAdd (rd rs rt : RegNum) (a : Arch) : Effect :=
  Effect.register a rd (aluAdd (a.regs.read rs) (a.regs.read rt))

/-- SUB in ID: control `0x09`, `alu_op = 001`, `dest = rd` (rules R110, R112). -/
def execSub (rd rs rt : RegNum) (s : State) : Host.Outcome State Fault Refusal :=
  .next (clock (rTypeIssue 0b001#3 rd rs rt) s)

/-- SUB: `x[rd] <- sub(x[rs], x[rt]); pc <- (pc + 1)[7:0]` (rules R62, R112). -/
def archSub (rd rs rt : RegNum) (a : Arch) : Effect :=
  Effect.register a rd (aluSub (a.regs.read rs) (a.regs.read rt))

/-- AND in ID: control `0x09`, `alu_op = 010`, `dest = rd` (rules R110, R113). -/
def execAnd (rd rs rt : RegNum) (s : State) : Host.Outcome State Fault Refusal :=
  .next (clock (rTypeIssue 0b010#3 rd rs rt) s)

/-- AND: `x[rd] <- and(x[rs], x[rt]); pc <- (pc + 1)[7:0]` (rules R63, R113). -/
def archAnd (rd rs rt : RegNum) (a : Arch) : Effect :=
  Effect.register a rd (aluAnd (a.regs.read rs) (a.regs.read rt))

/-- OR in ID: control `0x09`, `alu_op = 011`, `dest = rd` (rules R110, R114). -/
def execOr (rd rs rt : RegNum) (s : State) : Host.Outcome State Fault Refusal :=
  .next (clock (rTypeIssue 0b011#3 rd rs rt) s)

/-- OR: `x[rd] <- or(x[rs], x[rt]); pc <- (pc + 1)[7:0]` (rules R64, R114). -/
def archOr (rd rs rt : RegNum) (a : Arch) : Effect :=
  Effect.register a rd (aluOr (a.regs.read rs) (a.regs.read rt))

/-- XOR in ID: control `0x09`, `alu_op = 100`, `dest = rd` (rules R110, R115). -/
def execXor (rd rs rt : RegNum) (s : State) : Host.Outcome State Fault Refusal :=
  .next (clock (rTypeIssue 0b100#3 rd rs rt) s)

/-- XOR: `x[rd] <- xor(x[rs], x[rt]); pc <- (pc + 1)[7:0]` (rules R65, R115). -/
def archXor (rd rs rt : RegNum) (a : Arch) : Effect :=
  Effect.register a rd (aluXor (a.regs.read rs) (a.regs.read rt))

/-- SLT in ID: control `0x09`, `alu_op = 101`, `dest = rd` (rules R110, R116). -/
def execSlt (rd rs rt : RegNum) (s : State) : Host.Outcome State Fault Refusal :=
  .next (clock (rTypeIssue 0b101#3 rd rs rt) s)

/-- SLT: `x[rd] <- slt(x[rs], x[rt]); pc <- (pc + 1)[7:0]` (rules R66, R116). -/
def archSlt (rd rs rt : RegNum) (a : Arch) : Effect :=
  Effect.register a rd (aluSlt (a.regs.read rs) (a.regs.read rt))

/-- DIV in ID: control `0x09`, `alu_op = 110`, `dest = rd` (rules R110, R117). -/
def execDiv (rd rs rt : RegNum) (s : State) : Host.Outcome State Fault Refusal :=
  .next (clock (rTypeIssue 0b110#3 rd rs rt) s)

/-- DIV: `x[rd] <- div(x[rs], x[rt]); pc <- (pc + 1)[7:0]` (rules R67, R117). -/
def archDiv (rd rs rt : RegNum) (a : Arch) : Effect :=
  Effect.register a rd (aluDiv (a.regs.read rs) (a.regs.read rt))

end Sys2Proof.Machine
end

