-- ==== Sys2Proof/Machine/Immediate.lean ====
section
/-! DEFINITION. ADDI, LW and SW (45_immediate_memory_instructions.md). For each: its meaning, the whole clock in
which ID holds it, and its architectural effect, the rule's own pseudocode. -/

namespace Sys2Proof.Machine

/-- The decoder outputs of an I-format instruction other than JAL: `dest = rt` (rules R47, R74). -/
def iTypeIssue (ctrl : Ctrl) (aluOp : AluSel) (rs rt : RegNum) (imm : Int) : Issue :=
  { rs := rs, rt := rt, imm := immWord imm, dest := rt, ctrl := ctrl, aluOp := aluOp }

/-- ADDI in ID: control `0x0A`, `alu_op = ADD`, `dest = rt` (rule R118). -/
def execAddi (rt rs : RegNum) (imm : Int) (s : State) : Host.Outcome State Fault Refusal :=
  .next (clock (iTypeIssue Ctrl.addi 0b000#3 rs rt imm) s)

/-- ADDI: `x[rt] <- trunc_16(x[rs] + sext_16(imm6)); pc <- (pc + 1)[7:0]` (rule R118). -/
def archAddi (rt rs : RegNum) (imm : Int) (a : Arch) : Effect :=
  Effect.register a rt (aluAdd (a.regs.read rs) (immWord imm))

/-- LW in ID: control `0x1E`, `alu_op = ADD`, `dest = rt` (rule R119). -/
def execLw (rt : RegNum) (imm : Int) (rs : RegNum) (s : State) : Host.Outcome State Fault Refusal :=
  .next (clock (iTypeIssue Ctrl.lw 0b000#3 rs rt imm) s)

/-- LW: `x[rt] <- MemRead(addr, 1); pc <- (pc + 1)[7:0]` with the effective address of rule R36
(rule R119). -/
def archLw (rt : RegNum) (imm : Int) (rs : RegNum) (a : Arch) : Effect :=
  Effect.register a rt (a.dmem.read (effectiveAddress a rs imm))

/-- SW in ID: control `0x22`, `alu_op = ADD` (rule R120). -/
def execSw (rt : RegNum) (imm : Int) (rs : RegNum) (s : State) : Host.Outcome State Fault Refusal :=
  .next (clock (iTypeIssue Ctrl.sw 0b000#3 rs rt imm) s)

/-- SW: `MemWrite(addr, 1, x[rt]); pc <- (pc + 1)[7:0]` with the effective address of rule R36
(rule R120). -/
def archSw (rt : RegNum) (imm : Int) (rs : RegNum) (a : Arch) : Effect :=
  { next := nextIndex a.pc, reg := none,
    mem := some (effectiveAddress a rs imm, a.regs.read rt) }

end Sys2Proof.Machine
end

