-- ==== Sys2Proof/Machine/Transfer.lean ====
section
/-! DEFINITION. BEQ, J, JAL and JR (46_control_transfer_instructions.md). For each: its meaning, the whole clock
in which ID holds it, and its architectural effect, the rule's own pseudocode. The redirect of `PC` and the
flush happen one clock later, when the instruction is in EX (rules R96, R126). -/

namespace Sys2Proof.Machine

/-- BEQ in ID: control `0x40`, `alu_op = SUB` (rule R122). -/
def execBeq (rs rt : RegNum) (imm : Int) (s : State) : Host.Outcome State Fault Refusal :=
  .next (clock (iTypeIssue Ctrl.beq 0b001#3 rs rt imm) s)

/-- BEQ: to its own index plus the offset if `x[rs] == x[rt]`, else to the next (rules R122, R126). -/
def archBeq (rs rt : RegNum) (imm : Int) (a : Arch) : Effect :=
  if a.regs.read rs = a.regs.read rt then Effect.goto (pcRelative a.pc (immWord imm))
  else Effect.goto (nextIndex a.pc)

/-- J in ID: control `0x80`, `alu_op = ADD` (rule R123). -/
def execJ (rs rt : RegNum) (imm : Int) (s : State) : Host.Outcome State Fault Refusal :=
  .next (clock (iTypeIssue Ctrl.j 0b000#3 rs rt imm) s)

/-- J: `pc <- (pc + sext_16(imm6))[7:0]`; its `rs`, `rt` fields are ignored (rules R53, R123). -/
def archJ (_rs _rt : RegNum) (imm : Int) (a : Arch) : Effect :=
  Effect.goto (pcRelative a.pc (immWord imm))

/-- JAL in ID: control `0x88`, `alu_op = ADD`, `dest = 7` by the JAL override (rules R75, R124). -/
def execJal (rs rt : RegNum) (imm : Int) (s : State) : Host.Outcome State Fault Refusal :=
  .next (clock { iTypeIssue Ctrl.jal 0b000#3 rs rt imm with dest := Config.linkReg } s)

/-- JAL: `x[7] <- zext_16(pc) + 1; pc <- (pc + sext_16(imm6))[7:0]`; its `rs`, `rt` fields are ignored
(rules R53, R124). -/
def archJal (_rs _rt : RegNum) (imm : Int) (a : Arch) : Effect :=
  { next := pcRelative a.pc (immWord imm), reg := some (Config.linkReg, returnAddress a.pc),
    mem := none }

/-- JR in ID: control `0x82`, `alu_op = ADD`; `AluSrc` with `Jump` marks it (rules R76, R125). -/
def execJr (rs rt : RegNum) (imm : Int) (s : State) : Host.Outcome State Fault Refusal :=
  .next (clock (iTypeIssue Ctrl.jr 0b000#3 rs rt imm) s)

/-- JR: `pc <- x[rs][7:0]`; its `rt` and `imm` fields are ignored (rules R53, R125). -/
def archJr (rs _rt : RegNum) (_imm : Int) (a : Arch) : Effect :=
  Effect.goto (trunc8 (a.regs.read rs))

end Sys2Proof.Machine
end

