-- ==== Sys2Proof/Machine/Fetch.lean ====
section
/-! DEFINITION. Where a step finds its instruction: the `IF_ID` latch, which the IF stage of the clock before
filled from `IMem[PC]` (43_pipeline_controller.md rules R98, R102). -/

namespace Sys2Proof.Machine

/-- The word the coming clock decodes (rule R98). -/
def State.fetchWord (s : State) : Word := s.ifId.instr

/-- The state with a word stored at `IMem[PC]` and fetched from there: `IF_ID` holds it with `PC + 1`, and
`PC` has moved past it, as IF leaves them (rules R102, R103). -/
def State.withFetched (s : State) (w : Word) : State :=
  { s with
    pc := nextIndex s.pc
    imem := s.imem.write s.pc w
    ifId := { pcPlus1 := nextIndex s.pc, instr := w } }

end Sys2Proof.Machine
end

