-- ==== Sys2Proof/Machine/Reserved.lean ====
section
/-! DEFINITION. The reserved words in the pipeline (30_encoding.md rules R51, R52; 41_control_decoder.md rule
R77): they are no instruction of the table, and a step runs them as the spec says. -/

namespace Sys2Proof.Machine

/-- The decoder outputs of a reserved word: zero control vector, `alu_op = 000`, `dest = 000`; the other
fields are taken from the word as for any instruction (rule R77). -/
def reservedIssue (w : Word) : Issue :=
  { rs := rsField w, rt := rtField w, imm := sext16 (imm6Field w), dest := 0b000#3,
    ctrl := Ctrl.none, aluOp := 0b000#3 }

/-- The clock in which ID holds a reserved word: it goes on as a bubble does (rules R51, R52). -/
def runReserved (w : Word) (s : State) : Host.Outcome State Fault Refusal :=
  .next (clock (reservedIssue w) s)

end Sys2Proof.Machine
end

