-- ==== Sys2Proof/Machine/Step.lean ====
section
/-! DEFINITION. One step is one clock (43_pipeline_controller.md rule R90): the instruction in ID is decoded and
its meaning is that whole clock. A step always answers a next state (rules R105, R128). -/

namespace Sys2Proof.Machine

/-- One clock: the meaning of the instruction the word in `IF_ID` decodes to, or the reserved word's own
(rules R90, R98, R105; R51, R52). -/
def step (s : State) : Host.Outcome State Fault Refusal :=
  match decode s.fetchWord with
  | .ok i => exec i s
  | .error _ => runReserved s.fetchWord s

/-- The state in which the coming step runs the given word of the opcode table: the word is put where a
step takes its instruction from, stored in `IMem` and fetched (notes/assumptions/2.md). -/
def State.withFetchWord (s : State) (nbits w : Nat) : State := s.withFetched (tableWord nbits w)

end Sys2Proof.Machine
end

