-- ==== Sys2Proof/Machine/HostOps.lean ====
section
/-! DEFINITION. The host's operations between clocks (70_reset_and_hazards.md rules R140 to R143): `load`, `reset`,
`tick` and `snapshot`, and the signals a snapshot shows beside the state (43_pipeline_controller.md rule R109). -/

namespace Sys2Proof.Machine

/-- `load(words)`: "either all words are installed or none". A program of at most 256 words is installed
from index 0, every other cell, register, latch and counter is zeroed; a longer one is refused and nothing
changes (rule R141). -/
def State.load (words : List Word) (_s : State) : Host.Outcome State Fault Refusal :=
  if programFits words then
    .next { State.reset with imem := Memory.ofWords words 0 Memory.empty }
  else .refused (.programTooLarge words.length)

/-- `reset()`: "clears state while leaving `IMem` intact" (rule R142). -/
def State.hostReset (s : State) : State := { State.reset with imem := s.imem }

/-- The five signals a snapshot reports beside the state (rule R109). -/
structure Signals where
  ctrl : Ctrl
  forwardA : BitVec 2
  forwardB : BitVec 2
  stall : Bool
  pcSrc : Bool
deriving DecidableEq, Repr

/-- "Before the first tick all five are 0" (rule R109). -/
def Signals.zero : Signals :=
  { ctrl := Ctrl.none, forwardA := 0b00#2, forwardB := 0b00#2, stall := false, pcSrc := false }

/-- The signals computed in the clock that leaves a state, from its latches before the commit: the
decoder's control output, the two forward selectors, the stall and the redirect (rule R109). -/
def State.signals (s : State) : Signals :=
  { ctrl := (controlDecode s.fetchWord).ctrl, forwardA := s.forwardA, forwardB := s.forwardB,
    stall := s.stall, pcSrc := s.pcSrc }

/-- What the host holds: the core, and the signals of the clock just done. The signals are no state of the
core and no rule of it reads them (rules R26, R109). -/
structure Engine where
  core : State
  signals : Signals
deriving DecidableEq, Repr

/-- The three operations that change state (rule R140). -/
inductive HostOp where
  /-- `load(words)` (rule R141). -/
  | load (words : List Word)
  /-- `reset()` (rule R142). -/
  | reset
  /-- `tick()`, one clock (rule R143). -/
  | tick
deriving DecidableEq, Repr

/-- The outcome of an operation that gives a core, with the signals it leaves. -/
def withSignals (sig : Signals) (o : Host.Outcome State Fault Refusal) :
    Host.Outcome Engine Fault Refusal :=
  match o with
  | .next s => .next { core := s, signals := sig }
  | .fault r => .fault r
  | .refused r => .refused r

/-- One host operation, whole (rules R140 to R143). -/
def Engine.run (op : HostOp) (e : Engine) : Host.Outcome Engine Fault Refusal :=
  match op with
  | .load words => withSignals Signals.zero (e.core.load words)
  | .reset => withSignals Signals.zero (.next e.core.hostReset)
  | .tick => withSignals e.core.signals (step e.core)

/-- `snapshot()`: all state and the five signals; a pure read (rules R109, R139, R143). -/
def Engine.snapshot (e : Engine) : State × Signals := (e.core, e.signals)

end Sys2Proof.Machine
end

