-- ==== Sys2Proof/Machine/Sequential.lean ====
section
/-! DEFINITION. The instruction rules of files 44 to 46 put together: the effect of any instruction, and one
instruction at a time over an instruction memory, the machine rule R150 compares the pipeline with. -/

namespace Sys2Proof.Machine

/-- The architectural effect of an instruction, by its own rule. -/
def archEffect (i : Instr) (a : Arch) : Effect :=
  match i with
  | .add rd rs rt => archAdd rd rs rt a
  | .sub rd rs rt => archSub rd rs rt a
  | .and rd rs rt => archAnd rd rs rt a
  | .or rd rs rt => archOr rd rs rt a
  | .xor rd rs rt => archXor rd rs rt a
  | .slt rd rs rt => archSlt rd rs rt a
  | .div rd rs rt => archDiv rd rs rt a
  | .addi rt rs imm => archAddi rt rs imm a
  | .lw rt imm rs => archLw rt imm rs a
  | .sw rt imm rs => archSw rt imm rs a
  | .beq rs rt imm => archBeq rs rt imm a
  | .j rs rt imm => archJ rs rt imm a
  | .jal rs rt imm => archJal rs rt imm a
  | .jr rs rt imm => archJr rs rt imm a

/-- The effect of a word: of its instruction, or of a reserved word (rules R51, R52, R150). -/
def wordEffect (w : Word) (a : Arch) : Effect :=
  match decode w with
  | .ok i => archEffect i a
  | .error _ => reservedEffect a

/-- The effect of the instruction at `pc` (rule R150). -/
def effectAt (imem : Memory) (a : Arch) : Effect := wordEffect (imem.read a.pc) a

/-- One instruction executed. -/
def archStep (imem : Memory) (a : Arch) : Arch := (effectAt imem a).apply a

/-- The start of the sequence `e_1, e_2, ...`: index 0, all registers and data cells 0 (rule R150). -/
def Arch.start : Arch :=
  { pc := Config.entryIndex, regs := RegFile.zero, dmem := Memory.empty }

/-- The state after `k` instructions. -/
def archRun (imem : Memory) : Nat → Arch → Arch
  | 0, a => a
  | k + 1, a => archRun imem k (archStep imem a)

end Sys2Proof.Machine
end

