-- ==== Sys2Proof/Machine/Tick.lean ====
section
/-! DEFINITION. The whole tick in the form in which the spec collects it, one function with its own local
values (43_pipeline_controller.md rule R105), on instruction words and not on decoded instructions. The
machine's `step` goes through the decoder, the dispatch and the instruction's meaning instead; a statement
says that the two are the same function. -/

namespace Sys2Proof.Machine

/-- `tick(S)`, line by line (rule R105). -/
def tick (s : State) : State :=
  -- WB (R91)
  let wb_data := if s.memWb.ctrl.memToReg then s.memWb.memData else s.memWb.aluResult
  let wb_enable := s.memWb.ctrl.regWrite && decide (s.memWb.dest ≠ 0#3)
  let regs' := if wb_enable then s.regs.write s.memWb.dest wb_data else s.regs
  -- MEM (R92)
  let addr : Index := s.exMem.aluResult.extractLsb' 0 8
  let mem_data := if s.exMem.ctrl.memRead then s.dmem.read addr else 0x0000#16
  let dmem' := if s.exMem.ctrl.memWrite then s.dmem.write addr s.exMem.storeData else s.dmem
  let memWb' : MemWb :=
    { memData := mem_data, aluResult := s.exMem.aluResult, dest := s.exMem.dest, ctrl := s.exMem.ctrl }
  -- hazard unit (R81, R83, R84)
  let fwd : RegNum → BitVec 2 := fun r =>
    if s.exMem.ctrl.regWrite && decide (s.exMem.dest ≠ 0#3) && decide (s.exMem.dest = r) then 0b10#2
    else if s.memWb.ctrl.regWrite && decide (s.memWb.dest ≠ 0#3) && decide (s.memWb.dest = r) then 0b01#2
    else 0b00#2
  let fA := fwd s.idEx.rs
  let fB := fwd s.idEx.rt
  let stall := s.idEx.ctrl.memRead &&
    (decide (s.idEx.rt = s.ifId.instr.extractLsb' 9 3) || decide (s.idEx.rt = s.ifId.instr.extractLsb' 6 3))
  -- EX (R93 to R97)
  let a := if fA = 0b10#2 then s.exMem.aluResult else if fA = 0b01#2 then wb_data else s.idEx.rsVal
  let reg_b := if fB = 0b10#2 then s.exMem.aluResult else if fB = 0b01#2 then wb_data else s.idEx.rtVal
  let alu_b := if s.idEx.ctrl.aluSrc then s.idEx.imm else reg_b
  let alu_out := (alu a alu_b s.idEx.aluOp).1
  let zero := (alu a alu_b s.idEx.aluOp).2
  let branch_target : Index := (s.idEx.pc.setWidth 16 + s.idEx.imm).extractLsb' 0 8
  let is_jal := s.idEx.ctrl.jump && s.idEx.ctrl.regWrite
  let is_jr := s.idEx.ctrl.jump && s.idEx.ctrl.aluSrc
  let alu_result := if is_jal then s.idEx.pc.setWidth 16 + 1#16 else alu_out
  let pc_src := (s.idEx.ctrl.branch && zero) || s.idEx.ctrl.jump
  let target : Index := if is_jr then a.extractLsb' 0 8 else branch_target
  let exMem' : ExMem :=
    { branchTarget := branch_target, zero := zero, aluResult := alu_result, storeData := reg_b,
      dest := s.idEx.dest, ctrl := s.idEx.ctrl }
  -- ID (R98 to R101)
  let d := controlDecode s.ifId.instr
  let rs_val := regs'.read d.rs
  let rt_val := regs'.read d.rt
  let pc_id := s.ifId.pcPlus1 - 1#8
  let idEx' : IdEx :=
    if pc_src || stall then IdEx.bubble
    else { pc := pc_id, rsVal := rs_val, rtVal := rt_val, imm := d.imm, rs := d.rs, rt := d.rt,
           dest := d.dest, ctrl := d.ctrl, aluOp := d.aluOp }
  -- IF (R102, R103)
  let ifId' : IfId :=
    if pc_src then IfId.bubble else if stall then s.ifId
    else { pcPlus1 := s.pc + 1#8, instr := s.imem.read s.pc }
  let pc' := if pc_src then target else if stall then s.pc else s.pc + 1#8
  -- commit (R104)
  { pc := pc', regs := regs', imem := s.imem, dmem := dmem', cycle := s.cycle + 1,
    ifId := ifId', idEx := idEx', exMem := exMem', memWb := memWb' }

end Sys2Proof.Machine
end

