-- ==== Sys2Proof/Safety.lean ====
section
/-! DEFINITION. What counts as a safe run, and the terms in which claims about runs are made: the invariant of
the reachable states, runs of many clocks, and the sequences of writes rule R150 compares. A step cannot fault
(60_exceptions.md rule R128), so a run is safe when every state of it is legal. -/

namespace Sys2Proof.Machine

/-- Whether a control vector is one of the eight rows of the control table or all zero: "Every control
vector that can be in `ID_EX`, `EX_MEM` or `MEM_WB` in a state reachable from reset" (rule R72). -/
def Ctrl.isRow (c : Ctrl) : Bool :=
  c == Ctrl.none || c == Ctrl.rType || c == Ctrl.addi || c == Ctrl.lw || c == Ctrl.sw
    || c == Ctrl.beq || c == Ctrl.j || c == Ctrl.jal || c == Ctrl.jr

/-- Whether an `ID_EX` latch holds what the decoder can leave there: a row of the control table, with the
ALU selector and the destination that go with it (rules R72 to R75, R77). -/
def IdEx.legal (l : IdEx) : Bool :=
  if l.ctrl = Ctrl.none then l.aluOp == 0b000#3 && l.dest == 0#3
  else if l.ctrl = Ctrl.rType then l.aluOp != 0b111#3
  else if l.ctrl = Ctrl.beq then l.aluOp == 0b001#3 && l.dest == l.rt
  else if l.ctrl = Ctrl.jal then l.aluOp == 0b000#3 && l.dest == Config.linkReg
  else l.ctrl.isRow && l.aluOp == 0b000#3 && l.dest == l.rt

/-- The invariant of the reachable states: `RegFile[0]` is 0 (rule R27 item 1), both memories are in their
canonical form, and each latch holds what the stage before it can leave (rule R72; rule R92 for the data
of an instruction that is not a load). -/
def State.legal (s : State) : Bool :=
  s.regs.cells.get 0 == 0x0000#16 && s.imem.wf && s.dmem.wf && s.idEx.legal && s.exMem.ctrl.isRow
    && s.memWb.ctrl.isRow && (s.memWb.ctrl.memRead || s.memWb.memData == 0x0000#16)

/-- The state a step leaves. A step always answers a next state; the other two cases keep the state. -/
def State.after (s : State) : State :=
  match step s with
  | .next t => t
  | .fault _ => s
  | .refused _ => s

/-- The state after `n` clocks. -/
def clocks : Nat → State → State
  | 0, s => s
  | n + 1, s => clocks n s.after

/-- The register write the coming clock makes: none, or the register and its value (rule R91). -/
def State.regWrite? (s : State) : Option (RegNum × Word) :=
  if wbEnable s.memWb then some (s.memWb.dest, wbData s.memWb) else none

/-- The data write the coming clock makes: none, or the cell and its value (rule R92). -/
def State.memWrite? (s : State) : Option (Index × Word) :=
  if s.exMem.ctrl.memWrite then some (dataAddress s.exMem.aluResult, s.exMem.storeData) else none

/-- The register writes of `n` clocks, in order (rule R150). -/
def regWrites : Nat → State → List (RegNum × Word)
  | 0, _ => []
  | n + 1, s => s.regWrite?.toList ++ regWrites n s.after

/-- The data writes of `n` clocks, in order (rule R150). -/
def memWrites : Nat → State → List (Index × Word)
  | 0, _ => []
  | n + 1, s => s.memWrite?.toList ++ memWrites n s.after

/-- The register write of an effect, "writes to `r0` left out" (rule R150). -/
def Effect.regWrite? (e : Effect) : Option (RegNum × Word) :=
  match e.reg with
  | some (k, v) => if k = 0#3 then none else some (k, v)
  | none => none

/-- The register writes of `k` instructions, in order (rule R150). -/
def archRegWrites (imem : Memory) : Nat → Arch → List (RegNum × Word)
  | 0, _ => []
  | k + 1, a => (effectAt imem a).regWrite?.toList ++ archRegWrites imem k (archStep imem a)

/-- The data writes of `k` instructions, in order (rule R150). -/
def archMemWrites (imem : Memory) : Nat → Arch → List (Index × Word)
  | 0, _ => []
  | k + 1, a => (effectAt imem a).mem.toList ++ archMemWrites imem k (archStep imem a)

/-- A run is safe for `n` clocks when every state of it, the first and the last included, is legal. -/
def State.safeFor : Nat → State → Bool
  | 0, s => s.legal
  | n + 1, s => s.legal && State.safeFor n s.after

/-- A run has drained when no later clock changes the registers or the data memory (rule R153). -/
def State.drained (s : State) : Prop :=
  ∀ n, (clocks n s).regs = s.regs ∧ (clocks n s).dmem = s.dmem

end Sys2Proof.Machine
end

