-- ==== Sys2Proof/Certificates/Slice0/Obligations.lean ====
section
/-! DEFINITION. The statements for the provers, from the numbered rules of spec/. A statement about an instruction
speaks of the clock in which ID holds it (`exec`) and of what it leaves once it has completed (`archAfter`,
`settledRegs`, `settledDMem`, `idIndex`); the statement SettledValuesArriveInTheRegisterFileAndMemory says what these
mean in clocks. -/

open Sys2Proof Sys2Proof.Machine

/-- Decode and encode agree on every well-formed instruction, each operand at every value the encoding admits.
-/
def Obligations.EncodedWellFormedInstructionDecodesBack : Prop :=
  ∀ i : Instr, i.wf = true → decode (encode i) = .ok i

/-- The other direction: no two words decode to one instruction, and decoding loses no bit. -/
def Obligations.DecodedWordEncodesBack : Prop :=
  ∀ (w : Word) (i : Instr), decode w = .ok i → i.wf = true ∧ encode i = w

/-- The reserved encodings, and no others, are no instructions. -/
def Obligations.DecodeRejectsExactlyTheReservedWords : Prop :=
  ∀ w : Word,
    (decode w = .error (.opcode (w.extractLsb' 12 4)) ↔ 8 ≤ (w.extractLsb' 12 4).toNat) ∧
    (decode w = .error .func ↔ w.extractLsb' 12 4 = 0b0000#4 ∧ w.extractLsb' 0 3 = 0b111#3) ∧
    ((∃ i, decode w = .ok i) ↔ (w.extractLsb' 12 4).toNat < 8 ∧
      ¬(w.extractLsb' 12 4 = 0b0000#4 ∧ w.extractLsb' 0 3 = 0b111#3))

/-- A few words bit by bit (30_encoding.md rule R56). -/
def Obligations.WrittenOutWordsDecode : Prop :=
  decode 0b0000_001_010_011_000#16 = .ok (.add 3 1 2) ∧
    decode 0b0000_100_010_011_110#16 = .ok (.div 3 4 2) ∧
    decode 0b0001_001_010_111111#16 = .ok (.addi 2 1 (-1)) ∧
    decode 0b0010_001_010_000100#16 = .ok (.lw 2 4 1) ∧
    decode 0b0011_001_010_111110#16 = .ok (.sw 2 (-2) 1) ∧
    decode 0b0100_001_010_000011#16 = .ok (.beq 1 2 3) ∧
    decode 0b0101_000_000_111010#16 = .ok (Instr.jTo (-6)) ∧
    decode 0b0110_000_000_000011#16 = .ok (Instr.jalTo 3) ∧
    decode 0b0111_111_000_000000#16 = .ok (Instr.jrTo 7)

/-- Rule R78, on the decoder: the row of each opcode as a number. Which bit is which is the spec's own
decision (92_eei_decisions.md D2; log entry 7), and so is the zero vector of the reserved words 8000 and 0007
(D7, D8; log entry 3). -/
def Obligations.ControlVectorsOfTheTableAsNumbers : Prop :=
  (controlDecode 0x0000#16).ctrl.toBits = 0x09#8 ∧ (controlDecode 0x1000#16).ctrl.toBits = 0x0A#8 ∧
    (controlDecode 0x2000#16).ctrl.toBits = 0x1E#8 ∧ (controlDecode 0x3000#16).ctrl.toBits = 0x22#8 ∧
    (controlDecode 0x4000#16).ctrl.toBits = 0x40#8 ∧ (controlDecode 0x5000#16).ctrl.toBits = 0x80#8 ∧
    (controlDecode 0x6000#16).ctrl.toBits = 0x88#8 ∧ (controlDecode 0x7000#16).ctrl.toBits = 0x82#8 ∧
    (controlDecode 0x8000#16).ctrl.toBits = 0x00#8 ∧ (controlDecode 0x0007#16).ctrl.toBits = 0x00#8 ∧
    IdEx.bubble.ctrl.toBits = 0x00#8 ∧ ExMem.bubble.ctrl.toBits = 0x00#8 ∧
    MemWb.bubble.ctrl.toBits = 0x00#8

/-- The machine, built from decoded instructions and their meanings, is the one function of rule R105. The
rule builds in the decisions the spec marks as its own, D3 to D10, D15 and D20 of 92_eei_decisions.md (log
entries 3 to 8, 15); a read of register 0 gives 0 on every state by the model's own reading of rule R12 (log
entry 10). -/
def Obligations.StepIsTheSpecsTick : Prop :=
  ∀ s : State, step s = .next (tick s)

/-- A run reaches the statements about instructions through this one. ID decodes the latch IF filled one clock
before; that its pc_plus_1 is PC + 1 in 8 bits is the spec's own decision (92_eei_decisions.md D3; log entry
8). -/
def Obligations.StepRunsTheDecodedInstruction : Prop :=
  ∀ (s : State) (i : Instr), decode s.fetchWord = .ok i → i.wf = true →
    step s = exec i s ∧
    (s.pcSrc = false → s.stall = false →
      ∃ t, exec i s = .next t ∧ t.fetchWord = s.imem.read s.pc ∧
        t.ifId.pcPlus1 = s.pc + 1#8 ∧ t.pc = s.pc + 1#8)

/-- The core raises no exception and cannot fault during a tick (60_exceptions.md rule R128). -/
def Obligations.StepNeverFaultsNorRefuses : Prop :=
  ∀ s : State, ∃ t, step s = .next t

/-- What the spec decides, as its own decision, for reserved words (92_eei_decisions.md D7, D8; log entry 3).
-/
def Obligations.ReservedWordPassesAsABubble : Prop :=
  ∀ (s : State) (r : Reserved), s.legal = true → decode s.fetchWord = .error r → s.pcSrc = false →
    s.stall = false →
    ∃ t, step s = .next t ∧ t.idEx.ctrl = Ctrl.none ∧ t.idEx.aluOp = 0b000#3 ∧ t.idEx.dest = 0#3 ∧
      t.idEx.rs = rsField s.fetchWord ∧ t.idEx.rt = rtField s.fetchWord ∧ t.idEx.pc = s.idIndex ∧
      t.idEx.imm = sext16 (imm6Field s.fetchWord) ∧
      t.archAfter = { pc := s.idIndex + 1#8, regs := s.settledRegs, dmem := s.settledDMem }

/-- Rules R61 and R62, on natural numbers. -/
def Obligations.AluAddAndSubWrapModulo65536 : Prop :=
  ∀ a b : Word, (alu a b 0b000#3).1.toNat = (a.toNat + b.toNat) % 65536 ∧
    (alu a b 0b001#3).1.toNat = (a.toNat + (65536 - b.toNat)) % 65536 ∧
    ((alu a b 0b001#3).2 = true ↔ a = b)

/-- Rules R63, R64, R65. -/
def Obligations.AluBitwiseOperationsActBitByBit : Prop :=
  ∀ (a b : Word) (i : Nat), i < 16 →
    (alu a b 0b010#3).1.getLsbD i = (a.getLsbD i && b.getLsbD i) ∧
    (alu a b 0b011#3).1.getLsbD i = (a.getLsbD i || b.getLsbD i) ∧
    (alu a b 0b100#3).1.getLsbD i = (a.getLsbD i ^^ b.getLsbD i)

/-- Rule R66, with the signed reading spelled out. -/
def Obligations.AluSltComparesTrueSignedValues : Prop :=
  ∀ a b : Word,
    (alu a b 0b101#3).1 =
      if (if a.toNat < 32768 then (a.toNat : Int) else a.toNat - 65536)
          < (if b.toNat < 32768 then (b.toNat : Int) else b.toNat - 65536)
      then 0x0001#16 else 0x0000#16

/-- Rule R67: the sign and the magnitude of the quotient, and the one quotient that does not fit. The last
clause is the spec's own decision (92_eei_decisions.md D9; log entry 4). -/
def Obligations.AluDivTruncatesTowardZero : Prop :=
  ∀ a b : Word,
    (b = 0x0000#16 → (alu a b 0b110#3).1 = 0x0000#16) ∧
    (b ≠ 0x0000#16 → ∃ q : Int, (alu a b 0b110#3).1 = BitVec.ofInt 16 q ∧
      q.natAbs = a.toInt.natAbs / b.toInt.natAbs ∧
      (0 < q → (a.toInt < 0 ↔ b.toInt < 0)) ∧ (q < 0 → ¬(a.toInt < 0 ↔ b.toInt < 0))) ∧
    (alu 0x8000#16 0xFFFF#16 0b110#3).1 = 0x8000#16

/-- Rules R68 and R69; the result for selector 111 is the spec's own decision (92_eei_decisions.md D8; log
entry 15). -/
def Obligations.AluZeroOutputAndSelectorSeven : Prop :=
  ∀ (a b : Word) (op : AluSel),
    ((alu a b op).2 = true ↔ (alu a b op).1 = 0x0000#16) ∧ alu a b 0b111#3 = (0x0000#16, true)

/-- ADD (rule R111), whole: encoding, result, frame, next index, and when RegFile holds the result. A write to
register 0 is dropped by `RegFile.write`. -/
def Obligations.AddWritesTheWrappedSum : Prop :=
  ∀ (rd rs rt : RegNum) (s : State), s.legal = true → s.pcSrc = false → loadUse s.idEx rs rt = false →
    encode (.add rd rs rt) = 0b0000#4 ++ rs ++ rt ++ rd ++ 0b000#3 ∧
    ∃ t, exec (.add rd rs rt) s = .next t ∧ t.imem = s.imem ∧
      t.idEx.ctrl = { Ctrl.none with regDst := true, regWrite := true } ∧ t.idEx.aluOp = 0b000#3 ∧
      t.idEx.dest = rd ∧
      t.archAfter =
        { pc := s.idIndex + 1#8
          regs := s.settledRegs.write rd
            (BitVec.ofNat 16 ((s.settledRegs.read rs).toNat + (s.settledRegs.read rt).toNat))
          dmem := s.settledDMem } ∧
      (clocks 3 t).regs = t.settledRegs ∧ (clocks 2 t).dmem = t.settledDMem

/-- SUB (rule R112), whole: encoding, result, frame, next index, and when RegFile holds the result. A write to
register 0 is dropped by `RegFile.write`. -/
def Obligations.SubWritesTheWrappedDifference : Prop :=
  ∀ (rd rs rt : RegNum) (s : State), s.legal = true → s.pcSrc = false → loadUse s.idEx rs rt = false →
    encode (.sub rd rs rt) = 0b0000#4 ++ rs ++ rt ++ rd ++ 0b001#3 ∧
    ∃ t, exec (.sub rd rs rt) s = .next t ∧ t.imem = s.imem ∧
      t.idEx.ctrl = { Ctrl.none with regDst := true, regWrite := true } ∧ t.idEx.aluOp = 0b001#3 ∧
      t.idEx.dest = rd ∧
      t.archAfter =
        { pc := s.idIndex + 1#8
          regs := s.settledRegs.write rd
            (BitVec.ofInt 16 ((s.settledRegs.read rs).toInt - (s.settledRegs.read rt).toInt))
          dmem := s.settledDMem } ∧
      (clocks 3 t).regs = t.settledRegs ∧ (clocks 2 t).dmem = t.settledDMem

/-- AND (rule R113), whole: encoding, result, frame, next index, and when RegFile holds the result. A write to
register 0 is dropped by `RegFile.write`. -/
def Obligations.AndWritesTheBitwiseAnd : Prop :=
  ∀ (rd rs rt : RegNum) (s : State), s.legal = true → s.pcSrc = false → loadUse s.idEx rs rt = false →
    encode (.and rd rs rt) = 0b0000#4 ++ rs ++ rt ++ rd ++ 0b010#3 ∧
    ∃ t, exec (.and rd rs rt) s = .next t ∧ t.imem = s.imem ∧
      t.idEx.ctrl = { Ctrl.none with regDst := true, regWrite := true } ∧ t.idEx.aluOp = 0b010#3 ∧
      t.idEx.dest = rd ∧
      t.archAfter =
        { pc := s.idIndex + 1#8
          regs := s.settledRegs.write rd
            (s.settledRegs.read rs &&& s.settledRegs.read rt)
          dmem := s.settledDMem } ∧
      (clocks 3 t).regs = t.settledRegs ∧ (clocks 2 t).dmem = t.settledDMem

/-- OR (rule R114), whole: encoding, result, frame, next index, and when RegFile holds the result. A write to
register 0 is dropped by `RegFile.write`. -/
def Obligations.OrWritesTheBitwiseOr : Prop :=
  ∀ (rd rs rt : RegNum) (s : State), s.legal = true → s.pcSrc = false → loadUse s.idEx rs rt = false →
    encode (.or rd rs rt) = 0b0000#4 ++ rs ++ rt ++ rd ++ 0b011#3 ∧
    ∃ t, exec (.or rd rs rt) s = .next t ∧ t.imem = s.imem ∧
      t.idEx.ctrl = { Ctrl.none with regDst := true, regWrite := true } ∧ t.idEx.aluOp = 0b011#3 ∧
      t.idEx.dest = rd ∧
      t.archAfter =
        { pc := s.idIndex + 1#8
          regs := s.settledRegs.write rd
            (s.settledRegs.read rs ||| s.settledRegs.read rt)
          dmem := s.settledDMem } ∧
      (clocks 3 t).regs = t.settledRegs ∧ (clocks 2 t).dmem = t.settledDMem

/-- XOR (rule R115), whole: encoding, result, frame, next index, and when RegFile holds the result. A write to
register 0 is dropped by `RegFile.write`. -/
def Obligations.XorWritesTheBitwiseXor : Prop :=
  ∀ (rd rs rt : RegNum) (s : State), s.legal = true → s.pcSrc = false → loadUse s.idEx rs rt = false →
    encode (.xor rd rs rt) = 0b0000#4 ++ rs ++ rt ++ rd ++ 0b100#3 ∧
    ∃ t, exec (.xor rd rs rt) s = .next t ∧ t.imem = s.imem ∧
      t.idEx.ctrl = { Ctrl.none with regDst := true, regWrite := true } ∧ t.idEx.aluOp = 0b100#3 ∧
      t.idEx.dest = rd ∧
      t.archAfter =
        { pc := s.idIndex + 1#8
          regs := s.settledRegs.write rd
            (s.settledRegs.read rs ^^^ s.settledRegs.read rt)
          dmem := s.settledDMem } ∧
      (clocks 3 t).regs = t.settledRegs ∧ (clocks 2 t).dmem = t.settledDMem

/-- SLT (rule R116), whole: encoding, result, frame, next index, and when RegFile holds the result. A write to
register 0 is dropped by `RegFile.write`. -/
def Obligations.SltWritesTheSignedComparison : Prop :=
  ∀ (rd rs rt : RegNum) (s : State), s.legal = true → s.pcSrc = false → loadUse s.idEx rs rt = false →
    encode (.slt rd rs rt) = 0b0000#4 ++ rs ++ rt ++ rd ++ 0b101#3 ∧
    ∃ t, exec (.slt rd rs rt) s = .next t ∧ t.imem = s.imem ∧
      t.idEx.ctrl = { Ctrl.none with regDst := true, regWrite := true } ∧ t.idEx.aluOp = 0b101#3 ∧
      t.idEx.dest = rd ∧
      t.archAfter =
        { pc := s.idIndex + 1#8
          regs := s.settledRegs.write rd
            (if (s.settledRegs.read rs).toInt < (s.settledRegs.read rt).toInt then 0x0001#16 else 0x0000#16)
          dmem := s.settledDMem } ∧
      (clocks 3 t).regs = t.settledRegs ∧ (clocks 2 t).dmem = t.settledDMem

/-- DIV (rule R117), whole: encoding, result, frame, next index, and when RegFile holds the result. A write to
register 0 is dropped by `RegFile.write`. The quotient of -32768 by -1 is the spec's own decision
(92_eei_decisions.md D9; log entry 4). -/
def Obligations.DivWritesTheTruncatedQuotient : Prop :=
  ∀ (rd rs rt : RegNum) (s : State), s.legal = true → s.pcSrc = false → loadUse s.idEx rs rt = false →
    encode (.div rd rs rt) = 0b0000#4 ++ rs ++ rt ++ rd ++ 0b110#3 ∧
    ∃ t, exec (.div rd rs rt) s = .next t ∧ t.imem = s.imem ∧
      t.idEx.ctrl = { Ctrl.none with regDst := true, regWrite := true } ∧ t.idEx.aluOp = 0b110#3 ∧
      t.idEx.dest = rd ∧
      t.archAfter =
        { pc := s.idIndex + 1#8
          regs := s.settledRegs.write rd
            (if s.settledRegs.read rt = 0x0000#16 then 0x0000#16
          else BitVec.ofInt 16 (Int.tdiv (s.settledRegs.read rs).toInt (s.settledRegs.read rt).toInt))
          dmem := s.settledDMem } ∧
      (clocks 3 t).regs = t.settledRegs ∧ (clocks 2 t).dmem = t.settledDMem

/-- ADDI (rule R118), whole. -/
def Obligations.AddiWritesTheWrappedSum : Prop :=
  ∀ (rt rs : RegNum) (imm : Int) (s : State), s.legal = true → s.pcSrc = false →
    loadUse s.idEx rs rt = false →
    encode (.addi rt rs imm) = 0b0001#4 ++ rs ++ rt ++ BitVec.ofInt 6 imm ∧
    ∃ t, exec (.addi rt rs imm) s = .next t ∧ t.imem = s.imem ∧
      t.idEx.ctrl = { Ctrl.none with aluSrc := true, regWrite := true } ∧
      t.idEx.aluOp = 0b000#3 ∧ t.idEx.dest = rt ∧
      t.archAfter =
        { pc := s.idIndex + 1#8
          regs := s.settledRegs.write rt (BitVec.ofInt 16 ((s.settledRegs.read rs).toInt + imm))
          dmem := s.settledDMem } ∧
      (clocks 3 t).regs = t.settledRegs ∧ (clocks 2 t).dmem = t.settledDMem

/-- LW (rule R119), whole. -/
def Obligations.LwLoadsTheWholeCell : Prop :=
  ∀ (rt rs : RegNum) (imm : Int) (s : State), s.legal = true → s.pcSrc = false →
    loadUse s.idEx rs rt = false →
    encode (.lw rt imm rs) = 0b0010#4 ++ rs ++ rt ++ BitVec.ofInt 6 imm ∧
    ∃ t, exec (.lw rt imm rs) s = .next t ∧ t.imem = s.imem ∧
      t.idEx.ctrl = { Ctrl.none with aluSrc := true, memToReg := true, regWrite := true, memRead := true } ∧
      t.idEx.aluOp = 0b000#3 ∧ t.idEx.dest = rt ∧
      t.archAfter =
        { pc := s.idIndex + 1#8
          regs := s.settledRegs.write rt
            (s.settledDMem.read (BitVec.ofInt 8 ((s.settledRegs.read rs).toInt + imm)))
          dmem := s.settledDMem } ∧
      (clocks 3 t).regs = t.settledRegs ∧ (clocks 2 t).dmem = t.settledDMem

/-- SW (rule R120), whole: the address is the data address of the ALU sum, as the MEM stage takes it. -/
def Obligations.SwStoresTheWholeRegister : Prop :=
  ∀ (rt rs : RegNum) (imm : Int) (s : State), s.legal = true → s.pcSrc = false →
    loadUse s.idEx rs rt = false →
    encode (.sw rt imm rs) = 0b0011#4 ++ rs ++ rt ++ BitVec.ofInt 6 imm ∧
    ∃ t, exec (.sw rt imm rs) s = .next t ∧ t.imem = s.imem ∧
      t.idEx.ctrl = { Ctrl.none with aluSrc := true, memWrite := true } ∧
      t.idEx.aluOp = 0b000#3 ∧ t.idEx.dest = rt ∧
      t.archAfter.pc = s.idIndex + 1#8 ∧ t.settledRegs = s.settledRegs ∧
      (∀ a : Index, t.settledDMem.read a =
        if a = dataAddress (aluAdd (s.settledRegs.read rs) (immWord imm)) then s.settledRegs.read rt
        else s.settledDMem.read a) ∧
      (clocks 3 t).regs = t.settledRegs ∧ (clocks 2 t).dmem = t.settledDMem

/-- BEQ (rule R122), whole, taken and not taken. -/
def Obligations.BeqBranchesExactlyOnEqualRegisters : Prop :=
  ∀ (rs rt : RegNum) (imm : Int) (s : State), s.legal = true → s.pcSrc = false →
    loadUse s.idEx rs rt = false →
    encode (.beq rs rt imm) = 0b0100#4 ++ rs ++ rt ++ BitVec.ofInt 6 imm ∧
    ∃ t, exec (.beq rs rt imm) s = .next t ∧ t.imem = s.imem ∧
      t.idEx.ctrl = { Ctrl.none with branch := true } ∧ t.idEx.aluOp = 0b001#3 ∧
      t.archAfter =
        { pc := if s.settledRegs.read rs = s.settledRegs.read rt
            then BitVec.ofInt 8 (s.idIndex.toNat + imm) else s.idIndex + 1#8
          regs := s.settledRegs
          dmem := s.settledDMem } ∧
      (s.settledRegs.read rs = s.settledRegs.read rt →
        t.after.pc = BitVec.ofInt 8 (s.idIndex.toNat + imm) ∧ t.after.ifId = IfId.bubble ∧
          t.after.idEx = IdEx.bubble) ∧
      (s.settledRegs.read rs ≠ s.settledRegs.read rt → t.pcSrc = false)

/-- J (rule R123), whole; the canonical word has rs = rt = 0. That non-zero rs and rt fields are ignored is
the spec's own decision (92_eei_decisions.md D21; log entry 14). -/
def Obligations.JJumpsRelativeToItself : Prop :=
  ∀ (rs rt : RegNum) (imm : Int) (s : State), s.legal = true → s.pcSrc = false →
    loadUse s.idEx rs rt = false →
    encode (Instr.jTo imm) = 0b0101#4 ++ 0b000#3 ++ 0b000#3 ++ BitVec.ofInt 6 imm ∧
    ∃ t, exec (.j rs rt imm) s = .next t ∧ t.imem = s.imem ∧
      t.idEx.ctrl = { Ctrl.none with jump := true } ∧
      t.idEx.aluOp = 0b000#3 ∧
      t.archAfter =
        { pc := BitVec.ofInt 8 (s.idIndex.toNat + imm)
          regs := s.settledRegs
          dmem := s.settledDMem } ∧
      t.after.pc = BitVec.ofInt 8 (s.idIndex.toNat + imm) ∧ t.after.ifId = IfId.bubble ∧
      t.after.idEx = IdEx.bubble

/-- JAL (rule R124), whole. The value 0x0100 at index 255 and the ignored fields are the spec's own decisions
(92_eei_decisions.md D15, D21; log entries 5, 14). -/
def Obligations.JalLinksRegisterSevenAndJumps : Prop :=
  ∀ (rs rt : RegNum) (imm : Int) (s : State), s.legal = true → s.pcSrc = false →
    loadUse s.idEx rs rt = false →
    encode (Instr.jalTo imm) = 0b0110#4 ++ 0b000#3 ++ 0b000#3 ++ BitVec.ofInt 6 imm ∧
    ∃ t, exec (.jal rs rt imm) s = .next t ∧ t.imem = s.imem ∧
      t.idEx.ctrl = { Ctrl.none with regWrite := true, jump := true } ∧
      t.idEx.aluOp = 0b000#3 ∧ t.idEx.dest = 7#3 ∧
      t.archAfter =
        { pc := BitVec.ofInt 8 (s.idIndex.toNat + imm)
          regs := s.settledRegs.write 7#3 (BitVec.ofNat 16 (s.idIndex.toNat + 1))
          dmem := s.settledDMem } ∧
      t.after.pc = BitVec.ofInt 8 (s.idIndex.toNat + imm) ∧ t.after.ifId = IfId.bubble ∧
      t.after.idEx = IdEx.bubble ∧
      (clocks 3 t).regs = t.settledRegs ∧ (clocks 2 t).dmem = t.settledDMem

/-- JR (rule R125), whole; the canonical word has rt = 0, imm = 0. That non-zero rt and imm fields are ignored
is the spec's own decision (92_eei_decisions.md D21; log entry 14). -/
def Obligations.JrJumpsToTheLowByteOfItsRegister : Prop :=
  ∀ (rs rt : RegNum) (imm : Int) (s : State), s.legal = true → s.pcSrc = false →
    loadUse s.idEx rs rt = false →
    encode (Instr.jrTo rs) = 0b0111#4 ++ rs ++ 0b000#3 ++ 0b000000#6 ∧
    ∃ t, exec (.jr rs rt imm) s = .next t ∧ t.imem = s.imem ∧
      t.idEx.ctrl = { Ctrl.none with aluSrc := true, jump := true } ∧
      t.idEx.aluOp = 0b000#3 ∧
      t.archAfter =
        { pc := BitVec.ofNat 8 (s.settledRegs.read rs).toNat
          regs := s.settledRegs
          dmem := s.settledDMem } ∧
      t.after.pc = BitVec.ofNat 8 (s.settledRegs.read rs).toNat ∧ t.after.ifId = IfId.bubble ∧
      t.after.idEx = IdEx.bubble

/-- Register 0 is hardwired: the form that discards its result, for every instruction that names a
destination. -/
def Obligations.DestinationZeroDiscardsTheResult : Prop :=
  ∀ (i : Instr) (rs rt : RegNum) (imm : Int) (s : State), s.legal = true → s.pcSrc = false →
    (i ∈ [.add 0 rs rt, .sub 0 rs rt, .and 0 rs rt, .or 0 rs rt, .xor 0 rs rt, .slt 0 rs rt,
        .div 0 rs rt] ∧ loadUse s.idEx rs rt = false ∨
      i ∈ [.addi 0 rs imm, .lw 0 imm rs] ∧ loadUse s.idEx rs 0#3 = false) →
    ∃ t, exec i s = .next t ∧
      t.archAfter = { pc := s.idIndex + 1#8, regs := s.settledRegs, dmem := s.settledDMem }

/-- Rule R82, whole: what the held clock leaves, that exactly one clock is lost, and how the value arrives. -/
def Obligations.InstructionIsHeldByALoadUseStall : Prop :=
  (∀ (i : Instr) (s : State), s.pcSrc = false → loadUse s.idEx (rsField (encode i)) (rtField (encode i)) = true →
    ∃ t, exec i s = .next t ∧ t.pc = s.pc ∧ t.ifId = s.ifId ∧ t.idEx = IdEx.bubble) ∧
  (∀ s : State, s.legal = true → s.stall = true →
    ∃ t u, step s = .next t ∧ step t = .next u ∧
      t.pc = s.pc ∧ t.ifId = s.ifId ∧ t.idEx = IdEx.bubble ∧
      t.exMem.ctrl = s.idEx.ctrl ∧ t.exMem.dest = s.idEx.rt ∧ t.stall = false ∧
      u.memWb.ctrl = s.idEx.ctrl ∧ u.memWb.dest = s.idEx.rt ∧
      u.memWb.memData = t.dmem.read (dataAddress t.exMem.aluResult) ∧
      u.idEx.pc = s.idIndex ∧ u.idEx.rs = rsField s.fetchWord ∧ u.idEx.rt = rtField s.fetchWord ∧
      (s.idEx.rt ≠ 0#3 → s.idEx.rt = rsField s.fetchWord →
        u.forwardA = 0b01#2 ∧ u.operandA = u.memWb.memData) ∧
      (s.idEx.rt ≠ 0#3 → s.idEx.rt = rtField s.fetchWord →
        u.forwardB = 0b01#2 ∧ u.regB = u.memWb.memData))

/-- Flush wins (rule R88; on unreachable states the spec's own decision D20, log entry 15); this is where an
instruction is discarded, not where it completes. -/
def Obligations.InstructionIsDiscardedByARedirect : Prop :=
  (∀ (i : Instr) (s : State), s.pcSrc = true →
    ∃ t, exec i s = .next t ∧ t.pc = s.target ∧ t.ifId = IfId.bubble ∧ t.idEx = IdEx.bubble) ∧
  (∀ s : State, s.legal = true → ¬(s.stall = true ∧ s.pcSrc = true))

/-- The cost of a taken BEQ, J, JAL or JR, on every state. The latched pc_plus_1, and the index ID_EX.pc
recovered from it, are the spec's own decisions (92_eei_decisions.md D3, D4; log entry 8); a reserved word at
the target is decoded as D7 and D8 say (log entry 3). -/
def Obligations.TakenTransferCostsTwoClocks : Prop :=
  ∀ s : State, s.pcSrc = true →
    (clocks 1 s).pc = s.target ∧ (clocks 1 s).ifId = IfId.bubble ∧ (clocks 1 s).idEx = IdEx.bubble ∧
    (clocks 2 s).ifId = { pcPlus1 := s.target + 1#8, instr := s.imem.read s.target } ∧
    (clocks 3 s).idEx.pc = s.target ∧
    (clocks 3 s).idEx.ctrl = (controlDecode (s.imem.read s.target)).ctrl ∧
    (clocks 3 s).idEx.aluOp = (controlDecode (s.imem.read s.target)).aluOp ∧
    (clocks 3 s).idEx.dest = (controlDecode (s.imem.read s.target)).dest ∧
    (clocks 3 s).idEx.imm = sext16 (imm6Field (s.imem.read s.target))

/-- What `settledRegs` and `settledDMem` mean in clocks, so that a statement about them is one about the
hardware. -/
def Obligations.SettledValuesArriveInTheRegisterFileAndMemory : Prop :=
  ∀ s : State, (clocks 3 s).regs = s.settledRegs ∧ (clocks 2 s).dmem = s.settledDMem

/-- The frame of one clock (rule R107), by cells. -/
def Obligations.StepChangesAtMostOneRegisterAndOneCell : Prop :=
  ∀ s : State, s.dmem.wf = true →
    ∃ t, step s = .next t ∧ t.imem = s.imem ∧
      (∀ k : Fin 8, ¬(s.memWb.ctrl.regWrite = true ∧ s.memWb.dest ≠ 0#3 ∧ s.memWb.dest.toFin = k) →
        t.regs.cells.get k = s.regs.cells.get k) ∧
      (∀ a : Index, ¬(s.exMem.ctrl.memWrite = true ∧ a = BitVec.ofNat 8 s.exMem.aluResult.toNat) →
        t.dmem.read a = s.dmem.read a)

/-- Rule R91, read through the register file's one read operation. -/
def Obligations.WriteBackWritesTheSelectedValue : Prop :=
  ∀ (s : State) (k : RegNum), ∃ t, step s = .next t ∧
      t.regs.read k =
        if s.memWb.ctrl.regWrite = true ∧ s.memWb.dest ≠ 0#3 ∧ k = s.memWb.dest then
          (if s.memWb.ctrl.memToReg then s.memWb.memData else s.memWb.aluResult)
        else s.regs.read k

/-- Rule R92, whole; if both bits were 1 the read gives the old cell. mem_data 0 without MemRead and read
before write are the spec's own decisions (92_eei_decisions.md D6, D10; log entry 6). -/
def Obligations.MemoryStageReadsThenWrites : Prop :=
  ∀ s : State, s.dmem.wf = true → ∃ t, step s = .next t ∧
      (∀ k : Index, t.dmem.read k =
        if s.exMem.ctrl.memWrite = true ∧ k = s.exMem.aluResult.extractLsb' 0 8 then s.exMem.storeData
        else s.dmem.read k) ∧
      t.memWb = { memData := if s.exMem.ctrl.memRead then s.dmem.read (s.exMem.aluResult.extractLsb' 0 8)
                    else 0x0000#16
                  aluResult := s.exMem.aluResult
                  dest := s.exMem.dest
                  ctrl := s.exMem.ctrl }

/-- The bubble case of rule R97 (90_conflicts.md C7). -/
def Obligations.BubbleInExLeavesOnlyZeroSet : Prop :=
  ∀ s : State, s.idEx = IdEx.bubble → ∃ t, step s = .next t ∧
      t.exMem = { branchTarget := 0x00#8, zero := true, aluResult := 0x0000#16, storeData := 0x0000#16,
                  dest := 0#3, ctrl := Ctrl.none }

/-- The write-first bypass (rules R13, R99); the instruction's own index as pc_plus_1 - 1 is the spec's own
decision (92_eei_decisions.md D4; log entry 8). -/
def Obligations.IdReadsTheValueBeingWritten : Prop :=
  ∀ (i : Instr) (s : State), s.pcSrc = false →
    loadUse s.idEx (rsField (encode i)) (rtField (encode i)) = false →
    ∃ t, exec i s = .next t ∧ t.idEx.pc = BitVec.ofNat 8 (s.ifId.pcPlus1.toNat + 255) ∧
      t.idEx.rs = rsField (encode i) ∧ t.idEx.rt = rtField (encode i) ∧
      t.idEx.rsVal =
        (if s.memWb.ctrl.regWrite = true ∧ s.memWb.dest ≠ 0#3 ∧ s.memWb.dest = t.idEx.rs
        then wbData s.memWb else s.regs.read t.idEx.rs) ∧
      t.idEx.rtVal =
        (if s.memWb.ctrl.regWrite = true ∧ s.memWb.dest ≠ 0#3 ∧ s.memWb.dest = t.idEx.rt
        then wbData s.memWb else s.regs.read t.idEx.rt)

/-- Rules R83, R84; 11 never occurs (rule R89 item 1). -/
def Obligations.ForwardSelectorsPreferTheYoungerWriter : Prop :=
  ∀ s : State,
    s.forwardA = (if s.exMem.ctrl.regWrite = true ∧ s.exMem.dest ≠ 0#3 ∧ s.exMem.dest = s.idEx.rs then 0b10#2
      else if s.memWb.ctrl.regWrite = true ∧ s.memWb.dest ≠ 0#3 ∧ s.memWb.dest = s.idEx.rs then 0b01#2
      else 0b00#2) ∧
    s.forwardB = (if s.exMem.ctrl.regWrite = true ∧ s.exMem.dest ≠ 0#3 ∧ s.exMem.dest = s.idEx.rt then 0b10#2
      else if s.memWb.ctrl.regWrite = true ∧ s.memWb.dest ≠ 0#3 ∧ s.memWb.dest = s.idEx.rt then 0b01#2
      else 0b00#2) ∧
    s.forwardA ≠ 0b11#2 ∧ s.forwardB ≠ 0b11#2

/-- Rule R108: side effects are gated by control bits alone; the other fields may hold anything. That mem_data
is 0 when MEM reads nothing is the spec's own decision (92_eei_decisions.md D6; log entry 6). -/
def Obligations.ZeroControlLatchesAreInert : Prop :=
  ∀ s : State, ∃ t, step s = .next t ∧
    (s.memWb.ctrl = Ctrl.none → t.regs = s.regs ∧ s.forwardA ≠ 0b01#2 ∧ s.forwardB ≠ 0b01#2) ∧
    (s.exMem.ctrl = Ctrl.none → t.dmem = s.dmem ∧ t.memWb.memData = 0x0000#16 ∧
      s.forwardA ≠ 0b10#2 ∧ s.forwardB ≠ 0b10#2) ∧
    (s.idEx.ctrl = Ctrl.none → s.pcSrc = false ∧ s.stall = false)

/-- Rule R27 item 5, and the zero IF_ID of rules R16 and R144 (90_conflicts.md C6); its index FF in ID_EX.pc
is the spec's own decision (92_eei_decisions.md D4; log entry 8). -/
def Obligations.BubblesPropagateDownThePipeline : Prop :=
  (∀ s : State, ∃ t, step s = .next t ∧
    (s.idEx.ctrl = Ctrl.none → t.exMem.ctrl = Ctrl.none) ∧
    (s.exMem.ctrl = Ctrl.none → t.memWb.ctrl = Ctrl.none)) ∧
  (∀ s : State, s.ifId = IfId.bubble → s.pcSrc = false → s.stall = false →
    ∃ t, step s = .next t ∧ t.idEx.ctrl = { Ctrl.none with regDst := true, regWrite := true } ∧
      t.idEx.dest = 0#3 ∧ t.idEx.pc = 0xFF#8)

/-- Rules R15, R104; that it is unbounded is the spec's own decision (92_eei_decisions.md D12; log entry 12).
-/
def Obligations.CycleCountsEveryClock : Prop :=
  ∀ (n : Nat) (s : State), (clocks n s).cycle = s.cycle + n

/-- The first half of the invariant: it holds at reset. -/
def Obligations.ResetStateIsLegal : Prop :=
  State.reset.legal = true

/-- The inductive invariant of the machine, over every state that meets it and not only those of a run. Its
clause on mem_data is the spec's own decision (92_eei_decisions.md D6; log entry 6). -/
def Obligations.EveryStepKeepsTheStateLegal : Prop :=
  ∀ s t : State, s.legal = true → step s = .next t → t.legal = true

/-- The invariant at the host's two entry points. -/
def Obligations.LoadAndResetLeaveLegalStates : Prop :=
  (∀ (words : List Word) (s : State), words.length ≤ 256 →
    ∃ t, s.load words = .next t ∧ t.legal = true) ∧
  (∀ s : State, s.imem.wf = true → s.hostReset.legal = true)

/-- Rule R141, whole. A refusal carries no state: the core and the signals the host holds are those it had.
Zero beyond the program and no change on refusal are the spec's own decisions (92_eei_decisions.md D17, D18;
log entry 11). -/
def Obligations.LoadInstallsAllWordsOrNone : Prop :=
  ∀ (words : List Word) (s : State),
    (words.length ≤ 256 → ∃ t, s.load words = .next t ∧
      (∀ a : Index, t.imem.read a = words.getD a.toNat 0x0000#16) ∧
      t.pc = 0x00#8 ∧ (∀ k : Fin 8, t.regs.cells.get k = 0x0000#16) ∧
      (∀ a : Index, t.dmem.read a = 0x0000#16) ∧ t.cycle = 0 ∧
      t.ifId = IfId.bubble ∧ t.idEx = IdEx.bubble ∧ t.exMem = ExMem.bubble ∧ t.memWb = MemWb.bubble) ∧
    (256 < words.length → s.load words = .refused (.programTooLarge words.length) ∧
      ∀ e : Engine, e.run (.load words) = .refused (.programTooLarge words.length))

/-- Rules R142 and R29. That DMem is cleared is the spec's own decision (92_eei_decisions.md D16; log entry
11). -/
def Obligations.HostResetClearsAllButTheProgram : Prop :=
  ∀ s : State, s.hostReset.imem = s.imem ∧ s.hostReset.pc = 0x00#8 ∧
    (∀ k : Fin 8, s.hostReset.regs.cells.get k = 0x0000#16) ∧
    (∀ a : Index, s.hostReset.dmem.read a = 0x0000#16) ∧ s.hostReset.cycle = 0 ∧
    s.hostReset.ifId = IfId.bubble ∧ s.hostReset.idEx = IdEx.bubble ∧
    s.hostReset.exMem = ExMem.bubble ∧ s.hostReset.memWb = MemWb.bubble ∧
    s.hostReset.hostReset = s.hostReset

/-- Rule R28; that it holds of a core not yet loaded is the spec's own decision (92_eei_decisions.md D11; log
entry 11). -/
def Obligations.FreshCoreIsAllZero : Prop :=
  State.reset.pc = 0x00#8 ∧ (∀ k : Fin 8, State.reset.regs.cells.get k = 0x0000#16) ∧
    (∀ a : Index, State.reset.imem.read a = 0x0000#16 ∧ State.reset.dmem.read a = 0x0000#16) ∧
    State.reset.cycle = 0 ∧ State.reset.ifId = { pcPlus1 := 0x00#8, instr := 0x0000#16 } ∧
    State.reset.idEx =
      { pc := 0x00#8, rsVal := 0x0000#16, rtVal := 0x0000#16, imm := 0x0000#16, rs := 0b000#3,
        rt := 0b000#3, dest := 0b000#3, aluOp := 0b000#3
        ctrl := { regDst := false, aluSrc := false, memToReg := false, regWrite := false,
                  memRead := false, memWrite := false, branch := false, jump := false } } ∧
    State.reset.exMem =
      { branchTarget := 0x00#8, zero := false, aluResult := 0x0000#16, storeData := 0x0000#16,
        dest := 0b000#3
        ctrl := { regDst := false, aluSrc := false, memToReg := false, regWrite := false,
                  memRead := false, memWrite := false, branch := false, jump := false } } ∧
    State.reset.memWb =
      { memData := 0x0000#16, aluResult := 0x0000#16, dest := 0b000#3
        ctrl := { regDst := false, aluSrc := false, memToReg := false, regWrite := false,
                  memRead := false, memWrite := false, branch := false, jump := false } } ∧
    (∀ s : State, s.load [] = .next State.reset)

/-- Rule R109; which clock the signals are of is the spec's own decision (92_eei_decisions.md D13; log entry
13). -/
def Obligations.SnapshotShowsTheSignalsOfTheClockJustDone : Prop :=
  ∀ e : Engine,
    (∃ f, e.run .tick = .next f ∧ step e.core = .next f.core ∧ f.snapshot = (f.core,
      { ctrl := (controlDecode e.core.ifId.instr).ctrl, forwardA := e.core.forwardA,
        forwardB := e.core.forwardB, stall := e.core.stall, pcSrc := e.core.pcSrc })) ∧
    (∀ words : List Word, words.length ≤ 256 → ∃ f, e.run (.load words) = .next f ∧
      e.core.load words = .next f.core ∧
      f.signals = { ctrl := Ctrl.none, forwardA := 0b00#2, forwardB := 0b00#2, stall := false, pcSrc := false }) ∧
    (∃ f, e.run .reset = .next f ∧ f.core = e.core.hostReset ∧
      f.signals = { ctrl := Ctrl.none, forwardA := 0b00#2, forwardB := 0b00#2, stall := false, pcSrc := false })

/-- The safety half of rule R150: stalls, forwarding and flushes are invisible to a program, whatever it is.
Both sides give a reserved word, DIV of -32768 by -1, JAL at index 255 and the ignored fields the effect the
spec itself decides (log entries 3, 4, 5, 14). -/
def Obligations.PipelineWritesArePrefixesOfSequentialWrites : Prop :=
  ∀ (words : List Word) (s t : State), words.length ≤ 256 → s.load words = .next t → ∀ n : Nat,
    ∃ k : Nat, regWrites n t <+: archRegWrites t.imem k Arch.start ∧
      memWrites n t <+: archMemWrites t.imem k Arch.start

/-- The progress half of rule R150, with a bound from rule R151. Both sides give a reserved word, DIV of
-32768 by -1, JAL at index 255 and the ignored fields the effect the spec itself decides (log entries 3, 4, 5,
14). -/
def Obligations.PipelineMakesEverySequentialWriteInTime : Prop :=
  ∀ (words : List Word) (s t : State), words.length ≤ 256 → s.load words = .next t → ∀ k : Nat,
    archRegWrites t.imem k Arch.start <+: regWrites (4 * k + 2) t ∧
      archMemWrites t.imem k Arch.start <+: memWrites (4 * k + 2) t

/-- The halt idiom (rule R154): tick E is the first clock from here, and the run has drained at tick E + 1;
drained is the spec's own definition (92_eei_decisions.md D14; log entry 17). -/
def Obligations.HaltIdiomLoopsForEverAndDrains : Prop :=
  ∀ (s : State) (h : Index), s.imem.read h = 0x4000#16 →
    s.idEx = { pc := h, rsVal := 0#16, rtVal := 0#16, imm := 0#16, rs := 0#3, rt := 0#3, dest := 0#3,
               ctrl := (controlDecode 0x4000#16).ctrl, aluOp := (controlDecode 0x4000#16).aluOp } →
    (∀ n : Nat, (clocks (3 * n) s).idEx = s.idEx ∧ (clocks (3 * n + 1) s).pc = h ∧
      (clocks (3 * n + 2) s).pc = h + 1#8 ∧ (clocks (3 * n + 3) s).pc = h + 2#8) ∧
    (clocks 2 s).drained
end

