-- ==== Sys2Proof/Laws/Encoding.lean ====
section
/-! SUPPORT. The fields of an encoded word: what each field reader gives on a word of the R format and of the
I format, and the immediate's round trip through its six bits. -/

namespace Sys2Proof

section RFormat
variable (rs rt rd : RegNum) (func : BitVec 3)

@[simp] theorem opField_encodeR : opField (encodeR rs rt rd func) = 0b0000#4 := by
  ext i hi
  simp only [opField, encodeR, BitVec.getElem_extractLsb', BitVec.getLsbD_append]
  interval_cases i <;> simp

@[simp] theorem rsField_encodeR : rsField (encodeR rs rt rd func) = rs := by
  ext i hi
  simp only [rsField, encodeR, BitVec.getElem_extractLsb', BitVec.getLsbD_append]
  interval_cases i <;> simp

@[simp] theorem rtField_encodeR : rtField (encodeR rs rt rd func) = rt := by
  ext i hi
  simp only [rtField, encodeR, BitVec.getElem_extractLsb', BitVec.getLsbD_append]
  interval_cases i <;> simp

@[simp] theorem rdField_encodeR : rdField (encodeR rs rt rd func) = rd := by
  ext i hi
  simp only [rdField, encodeR, BitVec.getElem_extractLsb', BitVec.getLsbD_append]
  interval_cases i <;> simp

@[simp] theorem funcField_encodeR : funcField (encodeR rs rt rd func) = func := by
  ext i hi
  simp only [funcField, encodeR, BitVec.getElem_extractLsb', BitVec.getLsbD_append]
  interval_cases i <;> simp

end RFormat

section IFormat
variable (op : BitVec 4) (rs rt : RegNum) (imm : Int)

@[simp] theorem opField_encodeI : opField (encodeI op rs rt imm) = op := by
  ext i hi
  simp only [opField, encodeI, BitVec.getElem_extractLsb', BitVec.getLsbD_append]
  interval_cases i <;> simp

@[simp] theorem rsField_encodeI : rsField (encodeI op rs rt imm) = rs := by
  ext i hi
  simp only [rsField, encodeI, BitVec.getElem_extractLsb', BitVec.getLsbD_append]
  interval_cases i <;> simp

@[simp] theorem rtField_encodeI : rtField (encodeI op rs rt imm) = rt := by
  ext i hi
  simp only [rtField, encodeI, BitVec.getElem_extractLsb', BitVec.getLsbD_append]
  interval_cases i <;> simp

@[simp] theorem imm6Field_encodeI : imm6Field (encodeI op rs rt imm) = imm6 imm := by
  ext i hi
  simp only [imm6Field, encodeI, BitVec.getElem_extractLsb', BitVec.getLsbD_append]
  interval_cases i <;> simp

end IFormat

/-- The range of an immediate, as numbers (rule R48). -/
theorem immInRange_iff (imm : Int) : immInRange imm = true ↔ -32 ≤ imm ∧ imm ≤ 31 := by
  rw [immInRange, Bool.and_eq_true, decide_eq_true_eq, decide_eq_true_eq]
  exact Iff.rfl

/-- An immediate in range comes back from its six bits. -/
theorem imm6_toInt (imm : Int) (h : immInRange imm = true) : (imm6 imm).toInt = imm := by
  rw [immInRange_iff] at h
  rw [imm6, BitVec.toInt_ofInt]
  exact Int.bmod_eq_of_le (by omega) (by omega)

/-- The six bits of a word's immediate are those of the number read from it. -/
theorem imm6_immField (w : Word) : imm6 (immField w) = imm6Field w := by
  simp [imm6, immField]

/-- The number read from a word's immediate is in range. -/
theorem immInRange_immField (w : Word) : immInRange (immField w) = true := by
  have h1 := BitVec.le_two_mul_toInt (x := imm6Field w)
  have h2 := BitVec.two_mul_toInt_lt (x := imm6Field w)
  rw [immInRange_iff, immField]
  omega

/-- The 16-bit operand of the number read from a word is the sign extension of its six bits (rule R48). -/
theorem Machine.immWord_immField (w : Word) :
    Machine.immWord (immField w) = Machine.sext16 (imm6Field w) := rfl

/-- A word is its four fields of the R format. -/
theorem word_of_rFields (w : Word) :
    opField w ++ rsField w ++ rtField w ++ rdField w ++ funcField w = w := by
  ext i hi
  simp only [opField, rsField, rtField, rdField, funcField]
  rw [BitVec.getElem_eq_testBit_toNat, BitVec.testBit_toNat]
  simp only [BitVec.getLsbD_append]
  interval_cases i <;> simp [BitVec.getLsbD_eq_getElem]

/-- A word is its four fields of the I format. -/
theorem word_of_iFields (w : Word) :
    opField w ++ rsField w ++ rtField w ++ imm6Field w = w := by
  ext i hi
  simp only [opField, rsField, rtField, imm6Field]
  rw [BitVec.getElem_eq_testBit_toNat, BitVec.testBit_toNat]
  simp only [BitVec.getLsbD_append]
  interval_cases i <;> simp [BitVec.getLsbD_eq_getElem]

end Sys2Proof
end

