-- ==== Sys2Proof/Laws/State.lean ====
section
/-! SUPPORT. One lemma per field of each update of the state: the clock, the fetch of a given word, the host's
reset. All hold by unfolding, so that no later proof unfolds a record update. -/

namespace Sys2Proof.Machine

section Clock
variable (d : Issue) (s : State)

@[simp] theorem clock_pc : (clock d s).pc =
    if s.pcSrc then s.target else if loadUse s.idEx d.rs d.rt then s.pc else nextIndex s.pc := rfl
@[simp] theorem clock_regs : (clock d s).regs = s.regsAfterWb := rfl
@[simp] theorem clock_imem : (clock d s).imem = s.imem := rfl
@[simp] theorem clock_dmem : (clock d s).dmem = memStore s.exMem s.dmem := rfl
@[simp] theorem clock_cycle : (clock d s).cycle = s.cycle + 1 := rfl
@[simp] theorem clock_ifId : (clock d s).ifId =
    if s.pcSrc then IfId.bubble else if loadUse s.idEx d.rs d.rt then s.ifId else s.fetched := rfl
@[simp] theorem clock_idEx : (clock d s).idEx =
    if s.pcSrc || loadUse s.idEx d.rs d.rt then IdEx.bubble else s.idOutput d := rfl
@[simp] theorem clock_exMem : (clock d s).exMem = s.exOutput := rfl
@[simp] theorem clock_memWb : (clock d s).memWb = memAccess s.exMem s.dmem := rfl

end Clock

section Fetch
variable (s : State) (w : Word)

@[simp] theorem withFetched_pc : (s.withFetched w).pc = nextIndex s.pc := rfl
@[simp] theorem withFetched_regs : (s.withFetched w).regs = s.regs := rfl
@[simp] theorem withFetched_imem : (s.withFetched w).imem = s.imem.write s.pc w := rfl
@[simp] theorem withFetched_dmem : (s.withFetched w).dmem = s.dmem := rfl
@[simp] theorem withFetched_cycle : (s.withFetched w).cycle = s.cycle := rfl
@[simp] theorem withFetched_fetchWord : (s.withFetched w).fetchWord = w := rfl
@[simp] theorem withFetched_idEx : (s.withFetched w).idEx = s.idEx := rfl
@[simp] theorem withFetched_exMem : (s.withFetched w).exMem = s.exMem := rfl
@[simp] theorem withFetched_memWb : (s.withFetched w).memWb = s.memWb := rfl

end Fetch

section Latches
variable (s : State) (d : Issue) (l : ExMem) (m : Memory)

@[simp] theorem idOutput_pc : (s.idOutput d).pc = s.idIndex := rfl
@[simp] theorem idOutput_rsVal : (s.idOutput d).rsVal = s.regsAfterWb.read d.rs := rfl
@[simp] theorem idOutput_rtVal : (s.idOutput d).rtVal = s.regsAfterWb.read d.rt := rfl
@[simp] theorem idOutput_imm : (s.idOutput d).imm = d.imm := rfl
@[simp] theorem idOutput_rs : (s.idOutput d).rs = d.rs := rfl
@[simp] theorem idOutput_rt : (s.idOutput d).rt = d.rt := rfl
@[simp] theorem idOutput_dest : (s.idOutput d).dest = d.dest := rfl
@[simp] theorem idOutput_ctrl : (s.idOutput d).ctrl = d.ctrl := rfl
@[simp] theorem idOutput_aluOp : (s.idOutput d).aluOp = d.aluOp := rfl
@[simp] theorem exOutput_dest : s.exOutput.dest = s.idEx.dest := rfl
@[simp] theorem exOutput_ctrl : s.exOutput.ctrl = s.idEx.ctrl := rfl
@[simp] theorem exOutput_storeData : s.exOutput.storeData = s.regB := rfl
@[simp] theorem memAccess_dest : (memAccess l m).dest = l.dest := rfl
@[simp] theorem memAccess_ctrl : (memAccess l m).ctrl = l.ctrl := rfl
@[simp] theorem memAccess_aluResult : (memAccess l m).aluResult = l.aluResult := rfl

end Latches

section HostReset
variable (s : State)

@[simp] theorem hostReset_imem : s.hostReset.imem = s.imem := rfl
@[simp] theorem hostReset_regs : s.hostReset.regs = RegFile.zero := rfl
@[simp] theorem hostReset_dmem : s.hostReset.dmem = Memory.empty := rfl

end HostReset

end Sys2Proof.Machine
end

