-- ==== Sys2Proof/Laws/Exec.lean ====
section
/-! SUPPORT. What a meaning can do, said once: every instruction's meaning is the shared clock with that
instruction's decoder outputs. Later proofs cite these and unfold neither `exec` nor a meaning. -/

namespace Sys2Proof.Machine

/-- The decoder outputs of an instruction (rules R72 to R75). -/
def issueOf : Instr → Issue
  | .add rd rs rt => rTypeIssue 0b000#3 rd rs rt
  | .sub rd rs rt => rTypeIssue 0b001#3 rd rs rt
  | .and rd rs rt => rTypeIssue 0b010#3 rd rs rt
  | .or rd rs rt => rTypeIssue 0b011#3 rd rs rt
  | .xor rd rs rt => rTypeIssue 0b100#3 rd rs rt
  | .slt rd rs rt => rTypeIssue 0b101#3 rd rs rt
  | .div rd rs rt => rTypeIssue 0b110#3 rd rs rt
  | .addi rt rs imm => iTypeIssue Ctrl.addi 0b000#3 rs rt imm
  | .lw rt imm rs => iTypeIssue Ctrl.lw 0b000#3 rs rt imm
  | .sw rt imm rs => iTypeIssue Ctrl.sw 0b000#3 rs rt imm
  | .beq rs rt imm => iTypeIssue Ctrl.beq 0b001#3 rs rt imm
  | .j rs rt imm => iTypeIssue Ctrl.j 0b000#3 rs rt imm
  | .jal rs rt imm => { iTypeIssue Ctrl.jal 0b000#3 rs rt imm with dest := Config.linkReg }
  | .jr rs rt imm => iTypeIssue Ctrl.jr 0b000#3 rs rt imm

/-- A meaning is the clock with its instruction's decoder outputs. -/
theorem exec_eq_clock (i : Instr) (s : State) : exec i s = .next (clock (issueOf i) s) := by
  cases i <;> rfl

/-- A reserved word runs as the clock with the zero control vector. -/
theorem runReserved_eq_clock (w : Word) (s : State) :
    runReserved w s = .next (clock (reservedIssue w) s) := rfl

/-- Everything a step can do: it is the clock of the decoded instruction, or of the reserved word. -/
theorem step_cases (s : State) :
    (∃ i, decode s.fetchWord = .ok i ∧ step s = .next (clock (issueOf i) s)) ∨
    (∃ r, decode s.fetchWord = .error r ∧ step s = .next (clock (reservedIssue s.fetchWord) s)) := by
  unfold step
  cases h : decode s.fetchWord with
  | ok i => exact .inl ⟨i, rfl, exec_eq_clock i s⟩
  | error r => exact .inr ⟨r, rfl, rfl⟩

end Sys2Proof.Machine
end

