-- ==== Sys2Proof/Laws/Memory.lean ====
section
/-! SUPPORT. What the memory and register operations do: a read after a write, the canonical form kept by
every operation, and equality of canonical memories from equality of their cells. -/

namespace Sys2Proof.Machine

/-- Setting a cell changes that cell and no other. -/
theorem cellAt_setCell (l : List (Nat × Word)) (lo a b : Nat) (v : Word)
    (h : cellsCanonical lo l = true) :
    cellAt (setCell l a v) b = if a = b then v else cellAt l b := by
  induction l generalizing lo with
  | nil => by_cases hv : v = Config.emptyCell <;> simp [setCell, cellAt, hv]
  | cons c rest ih =>
    obtain ⟨k, w⟩ := c
    simp only [cellsCanonical, Bool.and_eq_true, decide_eq_true_eq] at h
    have hlow : ∀ (r : List (Nat × Word)) (lo' x : Nat), cellsCanonical lo' r = true → x < lo' →
        cellAt r x = Config.emptyCell := by
      intro r
      induction r with
      | nil => intros; rfl
      | cons c' r' ih' =>
        intro lo' x hc hx
        obtain ⟨k', w'⟩ := c'
        simp only [cellsCanonical, Bool.and_eq_true, decide_eq_true_eq] at hc
        have hne : k' ≠ x := by omega
        simp only [cellAt, hne, if_false]
        exact ih' (k' + 1) x hc.2 (by omega)
    simp only [setCell]
    split
    · rename_i hak
      split
      · rename_i hv
        by_cases hab : a = b
        · subst hab
          have hne : k ≠ a := by omega
          simp only [cellAt, hne, if_false, if_true]
          rw [hv]
          exact hlow rest (k + 1) a h.2 (by omega)
        · simp [hab]
      · simp [cellAt]
    · split
      · rename_i hak
        subst hak
        split
        · rename_i hv
          by_cases hab : a = b
          · subst hab
            simp only [if_true]
            rw [hv]
            exact hlow rest (a + 1) a h.2 (by omega)
          · simp [cellAt, hab]
        · simp only [cellAt]
          split <;> simp_all
      · rename_i h1 h2
        simp only [cellAt]
        rw [ih (k + 1) h.2]
        by_cases hkb : k = b
        · subst hkb
          simp [h2]
        · simp [hkb]

/-- Setting a cell below 256 keeps the canonical form. -/
theorem cellsCanonical_setCell (l : List (Nat × Word)) (lo a : Nat) (v : Word)
    (h : cellsCanonical lo l = true) (hlo : lo ≤ a) (ha : a < Config.dmemWords) :
    cellsCanonical lo (setCell l a v) = true := by
  induction l generalizing lo with
  | nil =>
    by_cases hv : v = Config.emptyCell <;> simp [setCell, cellsCanonical, hv, hlo, ha]
  | cons c rest ih =>
    obtain ⟨k, w⟩ := c
    simp only [cellsCanonical, Bool.and_eq_true, decide_eq_true_eq] at h
    have hweak : ∀ (r : List (Nat × Word)) (x y : Nat), x ≤ y → cellsCanonical y r = true →
        cellsCanonical x r = true := by
      intro r x y hxy hr
      cases r with
      | nil => rfl
      | cons c' r' =>
        obtain ⟨k', w'⟩ := c'
        simp only [cellsCanonical, Bool.and_eq_true, decide_eq_true_eq] at hr ⊢
        exact ⟨⟨⟨by omega, hr.1.1.2⟩, hr.1.2⟩, hr.2⟩
    simp only [setCell]
    split
    · rename_i hak
      split
      · simp only [cellsCanonical, Bool.and_eq_true, decide_eq_true_eq]
        exact h
      · rename_i hv
        simp only [cellsCanonical, Bool.and_eq_true, decide_eq_true_eq]
        exact ⟨⟨⟨hlo, ha⟩, hv⟩, ⟨⟨by omega, h.1.1.2⟩, h.1.2⟩, h.2⟩
    · split
      · rename_i hak
        split
        · exact hweak rest lo (k + 1) (by omega) h.2
        · rename_i hv
          simp only [cellsCanonical, Bool.and_eq_true, decide_eq_true_eq]
          exact ⟨⟨⟨hlo, ha⟩, hv⟩, by rw [hak]; exact h.2⟩
      · simp only [cellsCanonical, Bool.and_eq_true, decide_eq_true_eq]
        exact ⟨h.1, ih (k + 1) h.2 (by omega)⟩

/-- A write keeps the canonical form. -/
theorem Memory.write_wf (m : Memory) (a : Index) (v : Word) (h : m.wf = true) :
    (m.write a v).wf = true :=
  cellsCanonical_setCell m.cells 0 a.toNat v h (Nat.zero_le _) a.isLt

/-- A read after a write to a canonical memory: the value at that cell, the old cell elsewhere. -/
theorem Memory.read_write (m : Memory) (a b : Index) (v : Word) (h : m.wf = true) :
    (m.write a v).read b = if a = b then v else m.read b := by
  have := cellAt_setCell m.cells 0 a.toNat b.toNat v h
  by_cases hab : a = b
  · subst hab; simpa [Memory.read, Memory.write] using this
  · have hne : a.toNat ≠ b.toNat := fun e => hab (BitVec.eq_of_toNat_eq e)
    simpa [Memory.read, Memory.write, hab, hne] using this

/-- A canonical list has no cell below its bound. -/
theorem cellAt_below (l : List (Nat × Word)) (lo x : Nat) (h : cellsCanonical lo l = true)
    (hx : x < lo) : cellAt l x = Config.emptyCell := by
  induction l generalizing lo with
  | nil => rfl
  | cons c rest ih =>
    obtain ⟨k, w⟩ := c
    simp only [cellsCanonical, Bool.and_eq_true, decide_eq_true_eq] at h
    have hne : k ≠ x := by omega
    simp only [cellAt, hne, if_false]
    exact ih (k + 1) h.2 (by omega)

/-- Two canonical lists with the same cells are the same list. -/
theorem cells_ext (l m : List (Nat × Word)) (lo : Nat) (hl : cellsCanonical lo l = true)
    (hm : cellsCanonical lo m = true) (h : ∀ a, a < Config.dmemWords → cellAt l a = cellAt m a) :
    l = m := by
  induction l generalizing m lo with
  | nil =>
    cases m with
    | nil => rfl
    | cons c rest =>
      obtain ⟨k, w⟩ := c
      simp only [cellsCanonical, Bool.and_eq_true, decide_eq_true_eq] at hm
      have := h k hm.1.1.2
      simp [cellAt] at this
      exact absurd this.symm hm.1.2
  | cons c rest ih =>
    obtain ⟨k, w⟩ := c
    have hl' := hl
    simp only [cellsCanonical, Bool.and_eq_true, decide_eq_true_eq] at hl
    cases m with
    | nil =>
      have := h k hl.1.1.2
      simp [cellAt] at this
      exact absurd this hl.1.2
    | cons c' rest' =>
      obtain ⟨k', w'⟩ := c'
      have hm' := hm
      simp only [cellsCanonical, Bool.and_eq_true, decide_eq_true_eq] at hm
      have hk : k = k' := by
        rcases Nat.lt_trichotomy k k' with hlt | heq | hgt
        · have := h k hl.1.1.2
          have hne : k' ≠ k := by omega
          simp only [cellAt, if_true, hne, if_false] at this
          rw [cellAt_below rest' (k' + 1) k hm.2 (by omega)] at this
          exact absurd this hl.1.2
        · exact heq
        · have := h k' hm.1.1.2
          have hne : k ≠ k' := by omega
          simp only [cellAt, if_true, hne, if_false] at this
          rw [cellAt_below rest (k + 1) k' hl.2 (by omega)] at this
          exact absurd this.symm hm.1.2
      subst hk
      have hw : w = w' := by simpa [cellAt] using h k hl.1.1.2
      subst hw
      have hrest : rest = rest' := by
        refine ih rest' (k + 1) hl.2 hm.2 fun a ha => ?_
        have := h a ha
        by_cases hka : k = a
        · subst hka
          rw [cellAt_below rest (k + 1) k hl.2 (by omega),
            cellAt_below rest' (k + 1) k hm.2 (by omega)]
        · simpa [cellAt, hka] using this
      rw [hrest]

/-- Two canonical memories with the same cells are equal. -/
theorem Memory.ext_of_read (m n : Memory) (hm : m.wf = true) (hn : n.wf = true)
    (h : ∀ a, m.read a = n.read a) : m = n := by
  obtain ⟨l⟩ := m
  obtain ⟨k⟩ := n
  have : l = k := by
    refine cells_ext l k 0 hm hn fun a ha => ?_
    have := h (BitVec.ofNat 8 a)
    have hmod : a % 256 = a := Nat.mod_eq_of_lt ha
    simpa [Memory.read, hmod] using this
  rw [this]

@[simp] theorem Memory.empty_wf : Memory.empty.wf = true := rfl
@[simp] theorem Memory.empty_read (a : Index) : Memory.empty.read a = 0x0000#16 := rfl

/-- The memory `load` builds is in the canonical form. -/
theorem Memory.ofWords_wf (ws : List Word) (i : Nat) (m : Memory) (h : m.wf = true) :
    (Memory.ofWords ws i m).wf = true := by
  induction ws generalizing i m with
  | nil => exact h
  | cons w ws ih => exact ih (i + 1) _ (m.write_wf _ _ h)

/-- Register 0 reads as 0 in every register file, whatever its cell holds. -/
@[simp] theorem RegFile.read_zero (r : RegFile) : r.read 0#3 = 0x0000#16 := rfl

/-- A write to register 0 is dropped. -/
@[simp] theorem RegFile.write_zero (r : RegFile) (v : Word) : r.write 0#3 v = r := rfl

/-- A read after a write: the value at that register unless it is register 0, the old one elsewhere. -/
theorem RegFile.read_write (r : RegFile) (k j : RegNum) (v : Word) :
    (r.write k v).read j = if k = j ∧ k ≠ 0#3 then v else r.read j := by
  by_cases hk : k = 0#3
  · subst hk; simp
  · by_cases hj : j = 0#3
    · subst hj; simp [hk]
    · have hget : (r.cells.set k.toFin v).get j.toFin
          = if k = j then v else r.cells.get j.toFin := by
        have hiff : (k.toNat = j.toNat) ↔ k = j :=
          ⟨fun e => BitVec.eq_of_toNat_eq e, fun e => by rw [e]⟩
        simp only [Vector.get_eq_getElem, Vector.getElem_set, BitVec.val_toFin]
        by_cases hkj : k = j <;> simp [hkj, hiff]
      simp only [RegFile.read, RegFile.write, hk, hj, if_false]
      rw [hget]
      simp [hk]

/-- A write never changes the cell of register 0. -/
theorem RegFile.write_cell_zero (r : RegFile) (k : RegNum) (v : Word) :
    (r.write k v).cells.get 0 = r.cells.get 0 := by
  by_cases hk : k = 0#3
  · subst hk; rfl
  · have hne : k.toNat ≠ 0 := fun e => hk (BitVec.eq_of_toNat_eq (by simpa using e))
    simp only [RegFile.write, hk, if_false]
    simp [Vector.get_eq_getElem, hne]

end Sys2Proof.Machine
end

