-- ==== Sys2Proof/Laws/Pipeline.lean ====
section
/-! SUPPORT. One lemma for each shared operation of the pipeline that says once everything it does: the
write-back, the data store, the forwarding multiplexer, ALU and control signals. -/

namespace Sys2Proof.Machine

/-- Whether a latch writes a register number: `RegWrite`, and the number is its destination and not 0. -/
abbrev MemWb.writes (l : MemWb) (k : RegNum) : Prop := l.ctrl.regWrite = true ∧ l.dest ≠ 0#3 ∧ l.dest = k

/-- Whether the instruction in MEM writes a register number. -/
abbrev ExMem.writes (l : ExMem) (k : RegNum) : Prop := l.ctrl.regWrite = true ∧ l.dest ≠ 0#3 ∧ l.dest = k

theorem wbEnable_iff (l : MemWb) : wbEnable l = true ↔ l.ctrl.regWrite = true ∧ l.dest ≠ 0#3 := by
  simp [wbEnable]

/-- What a write-back leaves in each register. -/
theorem writeBack_read (l : MemWb) (r : RegFile) (k : RegNum) :
    (writeBack l r).read k = if l.writes k then wbData l else r.read k := by
  unfold writeBack
  by_cases h : wbEnable l = true
  · obtain ⟨h1, h2⟩ := (wbEnable_iff l).mp h
    rw [if_pos h, RegFile.read_write]
    by_cases hk : l.dest = k
    · rw [if_pos ⟨hk, h2⟩, if_pos ⟨h1, h2, hk⟩]
    · rw [if_neg fun e => hk e.1, if_neg fun e => hk e.2.2]
  · rw [if_neg h, if_neg fun e => h ((wbEnable_iff l).mpr ⟨e.1, e.2.1⟩)]

/-- A write-back never changes the cell of register 0. -/
theorem writeBack_cell_zero (l : MemWb) (r : RegFile) :
    (writeBack l r).cells.get 0 = r.cells.get 0 := by
  unfold writeBack
  split
  · exact r.write_cell_zero _ _
  · rfl

/-- A latch that writes no register writes back nothing. -/
theorem writeBack_of_not_regWrite (l : MemWb) (r : RegFile) (h : l.ctrl.regWrite = false) :
    writeBack l r = r := by
  simp [writeBack, wbEnable, h]

/-- What the MEM stage leaves in each cell of a canonical memory. -/
theorem memStore_read (l : ExMem) (m : Memory) (a : Index) (h : m.wf = true) :
    (memStore l m).read a =
      if l.ctrl.memWrite = true ∧ dataAddress l.aluResult = a then l.storeData else m.read a := by
  unfold memStore
  by_cases hw : l.ctrl.memWrite = true
  · rw [if_pos hw, Memory.read_write _ _ _ _ h]
    by_cases ha : dataAddress l.aluResult = a <;> simp [hw, ha]
  · simp [hw]

/-- The MEM stage keeps the canonical form. -/
theorem memStore_wf (l : ExMem) (m : Memory) (h : m.wf = true) : (memStore l m).wf = true := by
  unfold memStore
  split
  · exact m.write_wf _ _ h
  · exact h

/-- An instruction that stores nothing leaves the memory as it is. -/
theorem memStore_of_not_memWrite (l : ExMem) (m : Memory) (h : l.ctrl.memWrite = false) :
    memStore l m = m := by
  simp [memStore, h]

/-- What the selector and the multiplexer together supply for a register number: the younger writer's
ALU result, else the older writer's `wb_data`, else the latched value. -/
theorem forwardMux_forwardSel (x : ExMem) (y : MemWb) (r : RegNum) (v : Word) :
    forwardMux (forwardSel x y r) x.aluResult (wbData y) v =
      if x.writes r then x.aluResult else if y.writes r then wbData y else v := by
  unfold forwardSel
  split
  · rfl
  · split
    · simp [forwardMux]
    · simp [forwardMux]

/-- The ALU's second output says whether its first is zero. -/
theorem alu_zero (a b : Word) (op : AluSel) : (alu a b op).2 = true ↔ (alu a b op).1 = 0x0000#16 := by
  simp [alu, zeroOut]

@[simp] theorem alu_fst (a b : Word) (op : AluSel) : (alu a b op).1 = aluResult op a b := rfl

end Sys2Proof.Machine
end

