-- ==== Sys2Proof/Laws/Issue.lean ====
section
/-! SUPPORT. What an instruction that goes on from ID finds and leaves: the decoder outputs of a word are those of
its instruction, a legal state's latches, and the operands, the ALU and the redirect of the clock after it. -/

namespace Sys2Proof.Machine

@[simp] theorem controlDecode_rs (w : Word) : (controlDecode w).rs = rsField w := by
  unfold controlDecode
  split <;> rfl

@[simp] theorem controlDecode_rt (w : Word) : (controlDecode w).rt = rtField w := by
  unfold controlDecode
  split <;> rfl

/-- The low six bits of a word are its `rd` and `func` fields. -/
theorem imm6Field_eq (w : Word) : imm6Field w = rdField w ++ funcField w := by
  ext j hj
  rw [← BitVec.getLsbD_eq_getElem, ← BitVec.getLsbD_eq_getElem]
  simp only [imm6Field, rdField, funcField, BitVec.getLsbD_append]
  interval_cases j <;> simp

/-- The control decoder gives the outputs of the instruction the word decodes to. -/
theorem controlDecode_of_ok (w : Word) (i : Instr) (h : decode w = .ok i) :
    controlDecode w = issueOf i := by
  unfold decode at h
  split at h
  case h_1 ho =>
    unfold decodeRType at h
    split at h <;> rename_i hf <;> (try cases h) <;>
      simp [controlDecode, isReserved, ho, hf, issueOf, rTypeIssue, imm6Field_eq, controlRow, Ctrl.rType]
  case h_9 => cases h
  all_goals
    rename_i ho
    cases h
    simp [controlDecode, isReserved, ho, issueOf, iTypeIssue, controlRow, immWord_immField, Ctrl.addi,
      Ctrl.lw, Ctrl.sw, Ctrl.beq, Ctrl.j, Ctrl.jal, Ctrl.jr, Ctrl.none]

/-- The control decoder gives the reserved outputs for a word that decodes to nothing. -/
theorem controlDecode_of_error (w : Word) (r : Reserved) (h : decode w = .error r) :
    controlDecode w = reservedIssue w := by
  have hr : isReserved w = true := by
    unfold decode at h
    split at h <;> try cases h
    case h_1 ho =>
      unfold decodeRType at h
      split at h <;> rename_i hf <;> try cases h
      rename_i h0 h1 h2 h3 h4 h5 h6
      have : funcField w = 0b111#3 := by
        generalize funcField w = f at *
        revert f
        decide
      simp [isReserved, ho, this]
    case h_9 =>
      rename_i h0 h1 h2 h3 h4 h5 h6 h7
      simp only [isReserved, Bool.or_eq_true, decide_eq_true_eq]
      left
      generalize opField w = o at *
      revert o
      decide
  simp [controlDecode, hr, reservedIssue]

/-- A step is the clock with the control decoder's outputs for the word in ID. -/
theorem step_eq_clock (s : State) : step s = .next (clock (controlDecode s.fetchWord) s) := by
  rcases step_cases s with ⟨i, hd, hs⟩ | ⟨r, hd, hs⟩
  · rw [hs, controlDecode_of_ok _ _ hd]
  · rw [hs, controlDecode_of_error _ _ hd]

theorem after_eq_clock (s : State) : s.after = clock (controlDecode s.fetchWord) s := by
  unfold State.after
  rw [step_eq_clock]

/-- The fields of an instruction that enter the hazard unit are those of its word. -/
theorem issueOf_fields (i : Instr) :
    (issueOf i).rs = rsField (encode i) ∧ (issueOf i).rt = rtField (encode i) := by
  cases i <;> simp [issueOf, encode, rTypeIssue, iTypeIssue]

/-- The parts of legality. -/
theorem State.legal_iff (s : State) : s.legal = true ↔
    s.regs.cells.get 0 = 0x0000#16 ∧ s.imem.wf = true ∧ s.dmem.wf = true ∧ s.idEx.legal = true ∧
      s.exMem.ctrl.isRow = true ∧ s.memWb.ctrl.isRow = true ∧
      (s.memWb.ctrl.memRead = true ∨ s.memWb.memData = 0x0000#16) := by
  simp [State.legal, and_assoc]

/-- In a legal `ID_EX` latch a vector that selects the loaded word or reads memory is LW's. -/
theorem IdEx.legal_load (l : IdEx) (h : l.legal = true)
    (hm : l.ctrl.memRead = true ∨ l.ctrl.memToReg = true) : l.ctrl = Ctrl.lw ∧ l.dest = l.rt := by
  unfold IdEx.legal at h
  split at h; · simp_all [Ctrl.none]
  split at h; · simp_all [Ctrl.rType, Ctrl.none]
  split at h; · simp_all [Ctrl.beq, Ctrl.none]
  split at h; · simp_all [Ctrl.jal, Ctrl.none]
  simp only [Ctrl.isRow, Bool.and_eq_true, Bool.or_eq_true, beq_iff_eq] at h
  obtain ⟨⟨h1, -⟩, hd⟩ := h
  refine ⟨?_, hd⟩
  rcases h1 with ((((((((h1 | h1) | h1) | h1) | h1) | h1) | h1) | h1) | h1) <;> rw [h1] at hm ⊢ <;>
    simp_all [Ctrl.none, Ctrl.rType, Ctrl.addi, Ctrl.sw, Ctrl.beq, Ctrl.j, Ctrl.jal, Ctrl.jr]

theorem loadUse_eq_false {l : IdEx} {a b : RegNum} (h : loadUse l a b = false) :
    ¬(l.ctrl.memRead = true ∧ l.rt = a) ∧ ¬(l.ctrl.memRead = true ∧ l.rt = b) := by
  simp only [loadUse, Bool.and_eq_false_iff, Bool.or_eq_false_iff, beq_eq_false_iff_ne] at h
  constructor <;> rintro ⟨h1, h2⟩ <;> rcases h with h | h <;> simp_all

/-- Forwarding supplies the settled value: what the multiplexer gives one clock later for a register read in
ID is that register as every older instruction leaves it, unless a load of it is in EX. -/
theorem forwarded_read (s : State) (r : RegNum) (hl : s.legal = true)
    (hr : ¬(s.idEx.ctrl.memRead = true ∧ s.idEx.rt = r)) :
    forwardMux (forwardSel s.exOutput (memAccess s.exMem s.dmem) r) s.exOutput.aluResult
        (wbData (memAccess s.exMem s.dmem)) (s.regsAfterWb.read r) = s.settledRegs.read r := by
  rw [forwardMux_forwardSel]
  unfold State.settledRegs
  rw [writeBack_read, writeBack_read]
  have e : wbData (memAccess s.exOutput (memStore s.exMem s.dmem)) = if s.idEx.ctrl.memToReg then
      (memAccess s.exOutput (memStore s.exMem s.dmem)).memData else s.exOutput.aluResult := rfl
  by_cases hw : s.exOutput.writes r
  · rw [if_pos hw, if_pos (show MemWb.writes _ _ from hw), e]
    by_cases hm : s.idEx.ctrl.memToReg = true
    · have hlw := s.idEx.legal_load ((s.legal_iff.mp hl).2.2.2.1) (.inr hm)
      exact absurd ⟨by rw [hlw.1]; rfl, by rw [← hlw.2]; exact hw.2.2⟩ hr
    · rw [if_neg hm]
  · have hw' : ¬(memAccess s.exOutput (memStore s.exMem s.dmem)).writes r := hw
    rw [if_neg hw, if_neg hw']

section Issue
variable {s : State} {d : Issue}

/-- What an instruction that is neither discarded nor held leaves in `ID_EX`. -/
theorem issue_idEx (hp : s.pcSrc = false) (hd : loadUse s.idEx d.rs d.rt = false) :
    (clock d s).idEx = s.idOutput d := by
  simp [hp, hd]

theorem issue_operandA (hl : s.legal = true) (hp : s.pcSrc = false)
    (hd : loadUse s.idEx d.rs d.rt = false) : (clock d s).operandA = s.settledRegs.read d.rs := by
  unfold State.operandA State.forwardA
  rw [issue_idEx hp hd]
  exact forwarded_read s d.rs hl (loadUse_eq_false hd).1

theorem issue_regB (hl : s.legal = true) (hp : s.pcSrc = false)
    (hd : loadUse s.idEx d.rs d.rt = false) : (clock d s).regB = s.settledRegs.read d.rt := by
  unfold State.regB State.forwardB
  rw [issue_idEx hp hd]
  exact forwarded_read s d.rt hl (loadUse_eq_false hd).2

theorem issue_aluOut (hl : s.legal = true) (hp : s.pcSrc = false)
    (hd : loadUse s.idEx d.rs d.rt = false) : (clock d s).aluOut =
      alu (s.settledRegs.read d.rs) (aluOperandB d.ctrl d.imm (s.settledRegs.read d.rt)) d.aluOp := by
  unfold State.aluOut
  rw [issue_operandA hl hp hd, issue_regB hl hp hd, issue_idEx hp hd]
  rfl

theorem issue_target (hl : s.legal = true) (hp : s.pcSrc = false)
    (hd : loadUse s.idEx d.rs d.rt = false) : (clock d s).target =
      if d.ctrl.isJr then trunc8 (s.settledRegs.read d.rs) else pcRelative s.idIndex d.imm := by
  unfold State.target State.branchTarget
  rw [issue_operandA hl hp hd, issue_idEx hp hd]
  rfl

theorem issue_settledRegs (d : Issue) (s : State) : (clock d s).settledRegs =
    writeBack (memAccess (clock d s).exOutput s.settledDMem) s.settledRegs := rfl

theorem issue_settledDMem (d : Issue) (s : State) : (clock d s).settledDMem =
    memStore (clock d s).exOutput s.settledDMem := rfl

end Issue

end Sys2Proof.Machine
end

