-- ==== Sys2Proof/Laws/Operands.lean ====
section
/-! SUPPORT. The operand helpers as numbers: truncations, extensions, targets, return addresses and the
control vectors' numeric forms. -/

namespace Sys2Proof.Machine

@[simp] theorem trunc8_toNat (v : Word) : (trunc8 v).toNat = v.toNat % 256 := by
  simp [trunc8, BitVec.extractLsb'_toNat]

@[simp] theorem zext16_toNat (v : Index) : (zext16 v).toNat = v.toNat := by
  have := v.isLt
  simp only [zext16, BitVec.toNat_setWidth]
  omega

/-- The return address as a number: at most 256, never wrapped (rule R95). -/
theorem returnAddress_toNat (pc : Index) : (returnAddress pc).toNat = pc.toNat + 1 := by
  have := pc.isLt
  simp only [returnAddress, BitVec.toNat_add, zext16_toNat, BitVec.toNat_ofNat]
  omega

/-- The low eight bits of an integer's 16-bit form are its 8-bit form. -/
theorem trunc8_ofInt (x : Int) : trunc8 (BitVec.ofInt 16 x) = BitVec.ofInt 8 x := by
  apply BitVec.eq_of_toNat_eq
  rw [trunc8_toNat, BitVec.toNat_ofInt, BitVec.toNat_ofInt]
  omega

/-- A register number's 16-bit sum with an immediate, as an integer sum. -/
theorem add_immWord (v : Word) (imm : Int) : v + immWord imm = BitVec.ofInt 16 (v.toInt + imm) := by
  rw [immWord, BitVec.ofInt_add, BitVec.ofInt_toInt]

/-- The branch and jump target as an integer sum modulo 256 (rule R126). -/
theorem pcRelative_immWord (pc : Index) (imm : Int) :
    pcRelative pc (immWord imm) = BitVec.ofInt 8 (pc.toNat + imm) := by
  have h : zext16 pc + immWord imm = BitVec.ofInt 16 (pc.toNat + imm) := by
    have hz : zext16 pc = BitVec.ofInt 16 pc.toNat := by
      apply BitVec.eq_of_toNat_eq
      have := pc.isLt
      rw [zext16_toNat, BitVec.toNat_ofInt]
      omega
    rw [BitVec.ofInt_add, immWord, hz]
  rw [pcRelative, h, trunc8_ofInt]

@[simp] theorem Ctrl.none_toBits : Ctrl.none.toBits = 0x00#8 := by decide
@[simp] theorem Ctrl.rType_toBits : Ctrl.rType.toBits = 0x09#8 := by decide
@[simp] theorem Ctrl.addi_toBits : Ctrl.addi.toBits = 0x0A#8 := by decide
@[simp] theorem Ctrl.lw_toBits : Ctrl.lw.toBits = 0x1E#8 := by decide
@[simp] theorem Ctrl.sw_toBits : Ctrl.sw.toBits = 0x22#8 := by decide
@[simp] theorem Ctrl.beq_toBits : Ctrl.beq.toBits = 0x40#8 := by decide
@[simp] theorem Ctrl.j_toBits : Ctrl.j.toBits = 0x80#8 := by decide
@[simp] theorem Ctrl.jal_toBits : Ctrl.jal.toBits = 0x88#8 := by decide
@[simp] theorem Ctrl.jr_toBits : Ctrl.jr.toBits = 0x82#8 := by decide

/-- A control vector whose number is zero is the zero vector. -/
theorem Ctrl.eq_none_of_toBits (c : Ctrl) (h : c.toBits = 0x00#8) : c = Ctrl.none := by
  obtain ⟨c0, c1, c2, c3, c4, c5, c6, c7⟩ := c
  revert c0 c1 c2 c3 c4 c5 c6 c7
  decide

end Sys2Proof.Machine
end

