-- ==== Sys2Proof/Laws/PerInstr.lean ====
section
/-! SUPPORT. Statements about every instruction as syntax, one lemma per constructor. EncodedNotReserved: the
word of an instruction is never one of the reserved encodings (30_encoding.md rules R51, R52), so no
instruction is lost to them. -/

namespace Sys2Proof.Laws

/-- The word an instruction encodes to is no reserved word. -/
def EncodedNotReserved.Statement (i : Instr) : Prop := Machine.isReserved (encode i) = false

theorem EncodedNotReserved.add (rd rs rt : RegNum) :
    EncodedNotReserved.Statement (.add rd rs rt) := by
  simp [EncodedNotReserved.Statement, Machine.isReserved, encode]

theorem EncodedNotReserved.sub (rd rs rt : RegNum) :
    EncodedNotReserved.Statement (.sub rd rs rt) := by
  simp [EncodedNotReserved.Statement, Machine.isReserved, encode]

theorem EncodedNotReserved.and (rd rs rt : RegNum) :
    EncodedNotReserved.Statement (.and rd rs rt) := by
  simp [EncodedNotReserved.Statement, Machine.isReserved, encode]

theorem EncodedNotReserved.or (rd rs rt : RegNum) :
    EncodedNotReserved.Statement (.or rd rs rt) := by
  simp [EncodedNotReserved.Statement, Machine.isReserved, encode]

theorem EncodedNotReserved.xor (rd rs rt : RegNum) :
    EncodedNotReserved.Statement (.xor rd rs rt) := by
  simp [EncodedNotReserved.Statement, Machine.isReserved, encode]

theorem EncodedNotReserved.slt (rd rs rt : RegNum) :
    EncodedNotReserved.Statement (.slt rd rs rt) := by
  simp [EncodedNotReserved.Statement, Machine.isReserved, encode]

theorem EncodedNotReserved.div (rd rs rt : RegNum) :
    EncodedNotReserved.Statement (.div rd rs rt) := by
  simp [EncodedNotReserved.Statement, Machine.isReserved, encode]

theorem EncodedNotReserved.addi (rt rs : RegNum) (imm : Int) :
    EncodedNotReserved.Statement (.addi rt rs imm) := by
  simp [EncodedNotReserved.Statement, Machine.isReserved, encode]

theorem EncodedNotReserved.lw (rt : RegNum) (imm : Int) (rs : RegNum) :
    EncodedNotReserved.Statement (.lw rt imm rs) := by
  simp [EncodedNotReserved.Statement, Machine.isReserved, encode]

theorem EncodedNotReserved.sw (rt : RegNum) (imm : Int) (rs : RegNum) :
    EncodedNotReserved.Statement (.sw rt imm rs) := by
  simp [EncodedNotReserved.Statement, Machine.isReserved, encode]

theorem EncodedNotReserved.beq (rs rt : RegNum) (imm : Int) :
    EncodedNotReserved.Statement (.beq rs rt imm) := by
  simp [EncodedNotReserved.Statement, Machine.isReserved, encode]

theorem EncodedNotReserved.j (rs rt : RegNum) (imm : Int) :
    EncodedNotReserved.Statement (.j rs rt imm) := by
  simp [EncodedNotReserved.Statement, Machine.isReserved, encode]

theorem EncodedNotReserved.jal (rs rt : RegNum) (imm : Int) :
    EncodedNotReserved.Statement (.jal rs rt imm) := by
  simp [EncodedNotReserved.Statement, Machine.isReserved, encode]

theorem EncodedNotReserved.jr (rs rt : RegNum) (imm : Int) :
    EncodedNotReserved.Statement (.jr rs rt imm) := by
  simp [EncodedNotReserved.Statement, Machine.isReserved, encode]

end Sys2Proof.Laws
end

