-- ==== Sys2Proof/Tests/Slice0.lean ====
section
/-! SUPPORT. Tests and witnesses. Every expected value is taken from the spec: from the encodings of
30_encoding.md, or from the tables of 95_test_vectors.md section 3 (the row is named at each test). The witnesses
show, for each statement with hypotheses, a concrete state and operands that meet them all. -/

open Sys2Proof Sys2Proof.Machine

namespace Sys2Proof.Tests

/-- A core with some registers and data cells set, everything else as after reset. -/
def preset (regs : List (RegNum × Word)) (cells : List (Index × Word)) : State :=
  { State.reset with
    regs := regs.foldl (fun r c => r.write c.1 c.2) RegFile.zero
    dmem := cells.foldl (fun m c => m.write c.1 c.2) Memory.empty }

/-- The same core with a word in ID that was fetched from the given index. -/
def inId (word : Word) (index : Index) (s : State) : State :=
  { s with pc := index + 1#8, ifId := { pcPlus1 := index + 1#8, instr := word } }

/-- The same core with a word in EX that was fetched from the given index. -/
def inEx (word : Word) (index : Index) (s : State) : State :=
  { s with idEx := (inId word index s).idOutput (controlDecode word) }

/-- The same core with a word in MEM that was fetched from the given index. -/
def inMem (word : Word) (index : Index) (s : State) : State :=
  { s with exMem := (inEx word index s).exOutput }

/-- The same core with a word in WB that was fetched from the given index. -/
def inWb (word : Word) (index : Index) (s : State) : State :=
  { s with memWb := memAccess (inMem word index s).exMem s.dmem }

/-- The next state of an outcome. -/
def nextState? (o : Host.Outcome State Fault Refusal) : Option State :=
  match o with
  | .next t => some t
  | .fault _ => none
  | .refused _ => none

/-- What one step of a word from a preset core leaves: the next index and one register. -/
def leaves (word : Word) (index : Index) (regs : List (RegNum × Word)) (cells : List (Index × Word))
    (k : RegNum) : Option (Index × Word) :=
  (nextState? (step (inId word index (preset regs cells)))).map
    fun t => (t.archAfter.pc, t.archAfter.regs.read k)

/-- What one step of a word from a preset core leaves: the next index and one data cell. -/
def leavesCell (word : Word) (index : Index) (regs : List (RegNum × Word)) (cells : List (Index × Word))
    (a : Index) : Option (Index × Word) :=
  (nextState? (step (inId word index (preset regs cells)))).map
    fun t => (t.archAfter.pc, t.archAfter.dmem.read a)

/-! ### Well-formedness: an ill-formed term for each check -/

theorem test_addi_immediate_out_of_range_is_refused :
    Instr.wf (.addi 1 0 32) = false ∧ Instr.wf (.addi 1 0 (-33)) = false := by decide

theorem test_lw_immediate_out_of_range_is_refused :
    Instr.wf (.lw 1 32 0) = false ∧ Instr.wf (.lw 1 (-33) 0) = false := by decide

theorem test_sw_immediate_out_of_range_is_refused :
    Instr.wf (.sw 1 32 0) = false ∧ Instr.wf (.sw 1 (-33) 0) = false := by decide

theorem test_beq_immediate_out_of_range_is_refused :
    Instr.wf (.beq 1 0 32) = false ∧ Instr.wf (.beq 1 0 (-33)) = false := by decide

theorem test_j_immediate_out_of_range_is_refused :
    Instr.wf (.j 0 0 32) = false ∧ Instr.wf (.j 0 0 (-33)) = false := by decide

theorem test_jal_immediate_out_of_range_is_refused :
    Instr.wf (.jal 0 0 32) = false ∧ Instr.wf (.jal 0 0 (-33)) = false := by decide

theorem test_jr_immediate_out_of_range_is_refused :
    Instr.wf (.jr 1 0 32) = false ∧ Instr.wf (.jr 1 0 (-33)) = false := by decide

theorem test_immediate_boundaries_are_accepted :
    Instr.wf (.addi 1 0 31) = true ∧ Instr.wf (.addi 1 0 (-32)) = true := by decide

/-- The scenario's own out-of-range immediate (90_conflicts.md C8). -/
theorem test_scenario_immediate_99_is_refused : Instr.wf (.addi 1 0 99) = false := by decide

theorem test_nonzero_ignored_fields_are_not_canonical :
    Instr.canonical (.j 7 7 3) = false ∧ Instr.canonical (.jal 7 1 (-1)) = false ∧
      Instr.canonical (.jr 7 7 0) = false ∧ Instr.canonical (.jr 7 0 1) = false := by decide

theorem test_assembler_words_are_canonical :
    Instr.canonical (Instr.jTo 3) = true ∧ Instr.canonical (Instr.jalTo (-32)) = true ∧
      Instr.canonical (Instr.jrTo 7) = true := by decide

theorem test_programs_up_to_256_words_fit :
    programFits (List.replicate 256 0x0000#16) = true ∧
      programFits (List.replicate 257 0x0000#16) = false := by
  unfold programFits
  rw [List.length_replicate, List.length_replicate]
  decide

/-! ### Decoding: every constructor from a word written out bit by bit (95_test_vectors.md section 3.1) -/

theorem test_decode_add : decode 0b0000_001_010_011_000#16 = .ok (.add 3 1 2) := by decide

theorem test_decode_sub : decode 0b0000_001_010_011_001#16 = .ok (.sub 3 1 2) := by decide

theorem test_decode_and : decode 0b0000_001_010_011_010#16 = .ok (.and 3 1 2) := by decide

theorem test_decode_or : decode 0b0000_001_010_011_011#16 = .ok (.or 3 1 2) := by decide

theorem test_decode_xor : decode 0b0000_001_010_011_100#16 = .ok (.xor 3 1 2) := by decide

theorem test_decode_slt : decode 0b0000_011_000_101_101#16 = .ok (.slt 5 3 0) := by decide

theorem test_decode_div : decode 0b0000_100_010_011_110#16 = .ok (.div 3 4 2) := by decide

theorem test_decode_addi : decode 0b0001_001_010_100000#16 = .ok (.addi 2 1 (-32)) := by decide

theorem test_decode_lw : decode 0b0010_111_111_011111#16 = .ok (.lw 7 31 7) := by decide

theorem test_decode_sw : decode 0b0011_001_010_111110#16 = .ok (.sw 2 (-2) 1) := by decide

theorem test_decode_beq : decode 0b0100_001_010_111100#16 = .ok (.beq 1 2 (-4)) := by decide

theorem test_decode_j : decode 0b0101_000_000_111010#16 = .ok (.j 0 0 (-6)) := by decide

theorem test_decode_jal : decode 0b0110_000_000_100000#16 = .ok (.jal 0 0 (-32)) := by decide

theorem test_decode_jr : decode 0b0111_111_000_000000#16 = .ok (.jr 7 0 0) := by decide

/-- Rows of section 3.2 with the ignored fields not zero. -/
theorem test_decode_ignored_fields :
    decode 0x5FC3#16 = .ok (.j 7 7 3) ∧ decode 0x6E7F#16 = .ok (.jal 7 1 (-1)) ∧
      decode 0x7FFF#16 = .ok (.jr 7 7 (-1)) := by decide

theorem test_decode_reserved :
    decode 0x029F#16 = .error .func ∧ decode 0x0FFF#16 = .error .func ∧
      decode 0x8000#16 = .error (.opcode 0b1000#4) ∧ decode 0xFFFF#16 = .error (.opcode 0b1111#4) := by
  decide

theorem test_decode_pseudo :
    decode 0x0000#16 = .ok Instr.nop ∧ decode 0x4000#16 = .ok Instr.halt := by decide

theorem test_decodeTableWord :
    decodeTableWord 16 0x104A = some (.addi 1 0 10) ∧ decodeTableWord 16 0x8000 = none := by decide

/-- The word is fetched from where it was stored, and the very next step decodes it. -/
theorem test_withFetchWord :
    (State.reset.withFetchWord 16 0x104A).fetchWord = 0x104A#16 ∧
      (State.reset.withFetchWord 16 0x104A).imem.read 0x00#8 = 0x104A#16 ∧
      (State.reset.withFetchWord 16 0x104A).idIndex = 0x00#8 := by decide

/-! ### One step of each instruction (95_test_vectors.md section 3.4) -/

/-- Row `add r3,r1,r2`. -/
theorem test_add_wraps :
    leaves 0x0298#16 0x00#8 [(1, 0x7FFF#16), (2, 0x0001#16)] [] 3
      = some (0x01#8, 0x8000#16) := by decide

/-- Row `add r7,r7,r7 at FF`. -/
theorem test_add_index_wraps_and_sources_are_destination :
    leaves 0x0FF8#16 0xFF#8 [(7, 0x4000#16)] [] 7
      = some (0x00#8, 0x8000#16) := by decide

/-- Row `sub r3,r1,r2`. -/
theorem test_sub_wraps :
    leaves 0x0299#16 0x00#8 [(1, 0x8000#16), (2, 0x0001#16)] [] 3
      = some (0x01#8, 0x7FFF#16) := by decide

/-- Row `sub r3,r1,r2`. -/
theorem test_sub_negative :
    leaves 0x0299#16 0x00#8 [(1, 0x0003#16), (2, 0x0005#16)] [] 3
      = some (0x01#8, 0xFFFE#16) := by decide

/-- Row `and r3,r1,r2`. -/
theorem test_and_bits :
    leaves 0x029A#16 0x00#8 [(1, 0xF0F0#16), (2, 0x3C3C#16)] [] 3
      = some (0x01#8, 0x3030#16) := by decide

/-- Row `or r3,r1,r2`. -/
theorem test_or_bits :
    leaves 0x029B#16 0x00#8 [(1, 0xF0F0#16), (2, 0x3C3C#16)] [] 3
      = some (0x01#8, 0xFCFC#16) := by decide

/-- Row `xor r3,r1,r2`. -/
theorem test_xor_bits :
    leaves 0x029C#16 0x00#8 [(1, 0xF0F0#16), (2, 0x3C3C#16)] [] 3
      = some (0x01#8, 0xCCCC#16) := by decide

/-- Row `slt r3,r1,r2`. -/
theorem test_slt_extremes :
    leaves 0x029D#16 0x00#8 [(1, 0x8000#16), (2, 0x7FFF#16)] [] 3
      = some (0x01#8, 0x0001#16) := by decide

/-- Row `slt r3,r1,r2`. -/
theorem test_slt_is_signed :
    leaves 0x029D#16 0x00#8 [(1, 0x0000#16), (2, 0xFFFF#16), (3, 0x0009#16)] [] 3
      = some (0x01#8, 0x0000#16) := by decide

/-- Row `div r3,r1,r2`. -/
theorem test_div_toward_zero :
    leaves 0x029E#16 0x00#8 [(1, 0x0014#16), (2, 0xFFFD#16)] [] 3
      = some (0x01#8, 0xFFFA#16) := by decide

/-- Row `div r2,r1,r0`. -/
theorem test_div_by_zero :
    leaves 0x0216#16 0x00#8 [(1, 0x0007#16), (2, 0x5555#16)] [] 2
      = some (0x01#8, 0x0000#16) := by decide

/-- Row `addi r2,r1,-32`. -/
theorem test_addi_sign_extends :
    leaves 0x12A0#16 0x00#8 [(1, 0x8000#16)] [] 2
      = some (0x01#8, 0x7FE0#16) := by decide

/-- Row `addi r0,r1,5`. -/
theorem test_addi_to_register_zero :
    leaves 0x1205#16 0x00#8 [(1, 0x0001#16)] [] 0
      = some (0x01#8, 0x0000#16) := by decide

/-- Row `lw r2,0(r1)`. -/
theorem test_lw_address_is_masked :
    leaves 0x2280#16 0x00#8 [(1, 0x1234#16)] [(0x34#8, 0x00AA#16)] 2
      = some (0x01#8, 0x00AA#16) := by decide

/-- Row `lw r2,-2(r1)`. -/
theorem test_lw_address_wraps :
    leaves 0x22BE#16 0x00#8 [(1, 0x0001#16), (2, 0x7777#16)] [(0xFF#8, 0x0BAD#16)] 2
      = some (0x01#8, 0x0BAD#16) := by decide

/-- Row `beq r1,r2,-4 at 02`. -/
theorem test_beq_taken_wraps :
    leaves 0x42BC#16 0x02#8 [(1, 0x0001#16), (2, 0x0001#16)] [] 1
      = some (0xFE#8, 0x0001#16) := by decide

/-- Row `beq r1,r2,3 at 02`. -/
theorem test_beq_not_taken :
    leaves 0x4283#16 0x02#8 [(1, 0x0005#16), (2, 0x0006#16)] [] 1
      = some (0x03#8, 0x0005#16) := by decide

/-- Row `j -32 at 10`. -/
theorem test_j_backward :
    leaves 0x5020#16 0x10#8 [] [] 7
      = some (0xF0#8, 0x0000#16) := by decide

/-- Row `j 31 at F0`. -/
theorem test_j_forward_wraps :
    leaves 0x501F#16 0xF0#8 [] [] 7
      = some (0x0F#8, 0x0000#16) := by decide

/-- Row `jal 1 at FF`. -/
theorem test_jal_links_at_the_last_index :
    leaves 0x6001#16 0xFF#8 [] [] 7
      = some (0x00#8, 0x0100#16) := by decide

/-- Row `6E7F at 04`. -/
theorem test_jal_ignores_its_fields :
    leaves 0x6E7F#16 0x04#8 [(1, 0x1111#16), (7, 0x2222#16)] [] 7
      = some (0x03#8, 0x0005#16) := by decide

/-- Row `jr r1`. -/
theorem test_jr_masks_its_register :
    leaves 0x7200#16 0x00#8 [(1, 0x1234#16)] [] 1
      = some (0x34#8, 0x1234#16) := by decide

/-- Row `7FFF`. -/
theorem test_jr_ignores_its_fields :
    leaves 0x7FFF#16 0x00#8 [(7, 0x0020#16)] [] 7
      = some (0x20#8, 0x0020#16) := by decide

/-- Row `reserved 029F`. -/
theorem test_reserved_func :
    leaves 0x029F#16 0x00#8 [(1, 0x0005#16), (2, 0x0007#16), (3, 0x0009#16)] [] 3
      = some (0x01#8, 0x0009#16) := by decide

/-- Row `reserved FFFF at 04`. -/
theorem test_reserved_opcode :
    leaves 0xFFFF#16 0x04#8 [(7, 0x0007#16)] [(0xFF#8, 0x0001#16)] 7
      = some (0x05#8, 0x0007#16) := by decide

/-- Row `sw r2,31(r1)`. -/
theorem test_sw_stores_at_the_wrapped_address :
    leavesCell 0x329F#16 0x00#8 [(1, 0xFFF0#16), (2, 0x0002#16)] [] 0x0F#8
      = some (0x01#8, 0x0002#16) := by decide

/-- Row `sw r0,0(r1)`. -/
theorem test_sw_of_register_zero_clears :
    leavesCell 0x3200#16 0x00#8 [(1, 0x0009#16)] [(0x09#8, 0x5555#16)] 0x09#8
      = some (0x01#8, 0x0000#16) := by decide

/-! ### The hazard unit (95_test_vectors.md section 3.5) -/

/-- A load of r2 in EX and `add r3,r2,r1` in ID (row L1; section 2.2 tick 5). -/
def stalled : State := inId 0x0458#16 0x03#8 (inEx 0x2080#16 0x02#8 (preset [(1, 5#16)] [(0x00#8, 5#16)]))

/-- `beq r1,r2,3` with equal registers in EX and `addi r3,r0,29` in ID (section 2.3 tick 5). -/
def redirected : State := inId 0x10DD#16 0x03#8 (inEx 0x4283#16 0x02#8 (preset [(1, 5#16), (2, 5#16)] []))

/-- `add r3,r2,r1` in ID behind `addi r1,r0,5` in WB and `addi r2,r1,-1` in EX: a forward and a write-first
read are both needed. -/
def inFlight : State :=
  inId 0x0458#16 0x03#8 (inEx 0x12BF#16 0x02#8 (inWb 0x1045#16 0x00#8 (preset [(1, 9#16)] [])))

/-- `beq r0,r0,0` in EX at its own index. -/
def halted : State := inEx 0x4000#16 0x05#8 { preset [] [] with imem := Memory.empty.write 0x05#8 0x4000#16 }

theorem test_stall_rows :
    loadUse (inEx 0x2080#16 0 State.reset).idEx 2 1 = true ∧
      loadUse (inEx 0x2080#16 0 State.reset).idEx 1 2 = true ∧
      loadUse (inEx 0x2080#16 0 State.reset).idEx 1 1 = false ∧
      loadUse (inEx 0x1082#16 0 State.reset).idEx 2 1 = false ∧
      loadUse (inEx 0x2000#16 0 State.reset).idEx 0 0 = true := by decide

/-- Rows F6, F7, F8: the younger writer wins, rs and rt are independent, register 0 is never forwarded. -/
theorem test_forward_rows :
    forwardSel (inMem 0x1041#16 0 State.reset).exMem (inWb 0x1042#16 0 State.reset).memWb 1 = 0b10#2 ∧
      forwardSel (inMem 0x1081#16 0 State.reset).exMem (inWb 0x1042#16 0 State.reset).memWb 1 = 0b01#2 ∧
      forwardSel (inMem 0x1001#16 0 State.reset).exMem (inWb 0x1002#16 0 State.reset).memWb 0 = 0b00#2 := by
  decide

/-- Section 2.2 tick 5: PC and IF_ID are kept and ID_EX becomes the bubble. -/
theorem test_stall_step :
    (nextState? (step stalled)).map (fun t => (t.pc, t.ifId, t.idEx))
      = some (0x04#8, { pcPlus1 := 0x04#8, instr := 0x0458#16 }, IdEx.bubble) := by decide

/-- Section 2.3 tick 5: PC goes to 05, IF_ID and ID_EX become bubbles. -/
theorem test_flush_step :
    (nextState? (step redirected)).map (fun t => (t.pc, t.ifId, t.idEx))
      = some (0x05#8, IfId.bubble, IdEx.bubble) := by decide

/-- Section 2.1 tick 1, from the state after reset with the program's first word at index 0. -/
theorem test_first_tick :
    (nextState? (step { State.reset with imem := Memory.empty.write 0x00#8 0x104A#16 })).map
        (fun t => (t.pc, t.ifId, t.idEx.pc, t.idEx.ctrl.toBits, t.exMem.zero, t.memWb))
      = some (0x01#8, { pcPlus1 := 0x01#8, instr := 0x104A#16 }, 0xFF#8, 0x09#8, true, MemWb.bubble) := by
  decide

/-! ### Witnesses: for each statement with hypotheses, a state and operands that meet them all -/

theorem witness_EncodedWellFormedInstructionDecodesBack :
    Instr.wf (.lw 7 31 0) = true ∧ Instr.wf (.jal 7 1 (-32)) = true ∧ Instr.wf (.div 3 4 2) = true := by decide

theorem witness_DecodedWordEncodesBack : decode 0x6E7F#16 = .ok (.jal 7 1 (-1)) := by decide

theorem witness_StepRunsTheDecodedInstruction :
    decode inFlight.fetchWord = .ok (.add 3 2 1) ∧ Instr.wf (.add 3 2 1) = true ∧ inFlight.pcSrc = false ∧
      inFlight.stall = false := by decide

theorem witness_ReservedWordPassesAsABubble :
    (inId 0x029F#16 3 inFlight).legal = true ∧ decode (inId 0x029F#16 3 inFlight).fetchWord = .error .func ∧
      (inId 0x029F#16 3 inFlight).pcSrc = false ∧ (inId 0x029F#16 3 inFlight).stall = false ∧
      decode (inId 0x9ABC#16 3 inFlight).fetchWord = .error (.opcode 0b1001#4) ∧
      (inId 0x9ABC#16 3 inFlight).legal = true ∧ (inId 0x9ABC#16 3 inFlight).pcSrc = false ∧
      (inId 0x9ABC#16 3 inFlight).stall = false := by decide

theorem witness_AluBitwiseOperationsActBitByBit : 0 < 16 ∧ 15 < 16 := by decide

theorem witness_AluDivTruncatesTowardZero :
    (0x0003#16 ≠ 0x0000#16) ∧ (0x0014#16).toInt = 20 ∧ (0xFFFD#16).toInt = -3 ∧ (0xFFEC#16).toInt = -20 ∧
      Int.tdiv (-20) (-3) = 6 ∧ Int.tdiv (-20) 3 = -6 := by decide

/-- The hypotheses of every instruction statement: legal, not discarded, not held (O15 to O24). -/
theorem inFlight_issues :
    inFlight.legal = true ∧ inFlight.pcSrc = false ∧ loadUse inFlight.idEx 2 1 = false := by decide

theorem witness_AddWritesTheWrappedSum :
    inFlight.legal = true ∧ inFlight.pcSrc = false ∧ loadUse inFlight.idEx 2 1 = false := inFlight_issues

theorem witness_SubWritesTheWrappedDifference :
    inFlight.legal = true ∧ inFlight.pcSrc = false ∧ loadUse inFlight.idEx 2 1 = false := inFlight_issues

theorem witness_AndWritesTheBitwiseAnd :
    inFlight.legal = true ∧ inFlight.pcSrc = false ∧ loadUse inFlight.idEx 2 1 = false := inFlight_issues

theorem witness_OrWritesTheBitwiseOr :
    inFlight.legal = true ∧ inFlight.pcSrc = false ∧ loadUse inFlight.idEx 2 1 = false := inFlight_issues

theorem witness_XorWritesTheBitwiseXor :
    inFlight.legal = true ∧ inFlight.pcSrc = false ∧ loadUse inFlight.idEx 2 1 = false := inFlight_issues

theorem witness_SltWritesTheSignedComparison :
    inFlight.legal = true ∧ inFlight.pcSrc = false ∧ loadUse inFlight.idEx 2 1 = false := inFlight_issues

theorem witness_DivWritesTheTruncatedQuotient :
    inFlight.legal = true ∧ inFlight.pcSrc = false ∧ loadUse inFlight.idEx 2 1 = false := inFlight_issues

theorem witness_AddiWritesTheWrappedSum :
    inFlight.legal = true ∧ inFlight.pcSrc = false ∧ loadUse inFlight.idEx 2 1 = false := inFlight_issues

theorem witness_LwLoadsTheWholeCell :
    inFlight.legal = true ∧ inFlight.pcSrc = false ∧ loadUse inFlight.idEx 2 1 = false := inFlight_issues

theorem witness_SwStoresTheWholeRegister :
    inFlight.legal = true ∧ inFlight.pcSrc = false ∧ loadUse inFlight.idEx 2 1 = false := inFlight_issues

theorem witness_JJumpsRelativeToItself :
    inFlight.legal = true ∧ inFlight.pcSrc = false ∧ loadUse inFlight.idEx 2 1 = false := inFlight_issues

theorem witness_JalLinksRegisterSevenAndJumps :
    inFlight.legal = true ∧ inFlight.pcSrc = false ∧ loadUse inFlight.idEx 2 1 = false := inFlight_issues

theorem witness_JrJumpsToTheLowByteOfItsRegister :
    inFlight.legal = true ∧ inFlight.pcSrc = false ∧ loadUse inFlight.idEx 2 1 = false := inFlight_issues

/-- Both clauses of BEQ: r2 and r1 differ in flight (8 in EX, 5 in WB), r2 and r2 are equal. -/
theorem witness_BeqBranchesExactlyOnEqualRegisters :
    inFlight.legal = true ∧ inFlight.pcSrc = false ∧ loadUse inFlight.idEx 2 1 = false ∧
      loadUse inFlight.idEx 2 2 = false ∧
      inFlight.settledRegs.read 2 ≠ inFlight.settledRegs.read 1 ∧
      inFlight.settledRegs.read 2 = inFlight.settledRegs.read 2 := by decide

theorem witness_DestinationZeroDiscardsTheResult :
    inFlight.legal = true ∧ inFlight.pcSrc = false ∧ loadUse inFlight.idEx 2 1 = false ∧
      loadUse inFlight.idEx 2 0 = false ∧
      (Instr.div 0 2 1 ∈ [Instr.add 0 2 1, .sub 0 2 1, .and 0 2 1, .or 0 2 1, .xor 0 2 1, .slt 0 2 1,
        .div 0 2 1]) ∧ (Instr.lw 0 31 2 ∈ [Instr.addi 0 2 31, .lw 0 31 2]) := by decide

/-- The load's register is the rs field of the word in ID; the rt field in the second state. -/
theorem witness_InstructionIsHeldByALoadUseStall :
    stalled.legal = true ∧ stalled.pcSrc = false ∧ stalled.stall = true ∧
      loadUse stalled.idEx (rsField (encode (.add 3 2 1))) (rtField (encode (.add 3 2 1))) = true ∧
      stalled.idEx.rt ≠ 0#3 ∧ stalled.idEx.rt = rsField stalled.fetchWord ∧
      (inId 0x0298#16 3 stalled).legal = true ∧ (inId 0x0298#16 3 stalled).stall = true ∧
      (inId 0x0298#16 3 stalled).idEx.rt = rtField (inId 0x0298#16 3 stalled).fetchWord := by decide

theorem witness_InstructionIsDiscardedByARedirect : redirected.legal = true ∧ redirected.pcSrc = true := by
  decide

theorem witness_TakenTransferCostsTwoClocks : redirected.pcSrc = true := by decide

/-- A state in which nothing is written, and one in which WB writes r1 and MEM writes cell 4. -/
theorem witness_StepChangesAtMostOneRegisterAndOneCell :
    State.reset.dmem.wf = true ∧ State.reset.memWb.ctrl.regWrite = false ∧
      State.reset.exMem.ctrl.memWrite = false ∧ (inMem 0x3044#16 1 inFlight).dmem.wf = true ∧
      (inMem 0x3044#16 1 inFlight).memWb.ctrl.regWrite = true ∧
      (inMem 0x3044#16 1 inFlight).memWb.dest = 1#3 ∧
      (inMem 0x3044#16 1 inFlight).exMem.ctrl.memWrite = true ∧
      dataAddress (inMem 0x3044#16 1 inFlight).exMem.aluResult = 4#8 := by decide

theorem witness_MemoryStageReadsThenWrites :
    (inMem 0x3044#16 1 inFlight).dmem.wf = true ∧ (inMem 0x3044#16 1 inFlight).exMem.ctrl.memWrite = true ∧
      (inMem 0x2084#16 1 inFlight).dmem.wf = true ∧ (inMem 0x2084#16 1 inFlight).exMem.ctrl.memRead = true := by
  decide

theorem witness_BubbleInExLeavesOnlyZeroSet : State.reset.idEx = IdEx.bubble := by decide

/-- A register being written is read in ID: r1 is the rt field of the word and the destination in WB. -/
theorem witness_IdReadsTheValueBeingWritten :
    inFlight.pcSrc = false ∧
      loadUse inFlight.idEx (rsField (encode (.add 3 2 1))) (rtField (encode (.add 3 2 1))) = false ∧
      inFlight.memWb.ctrl.regWrite = true ∧ inFlight.memWb.dest = rtField (encode (.add 3 2 1)) := by decide

theorem witness_ZeroControlLatchesAreInert :
    State.reset.memWb.ctrl = Ctrl.none ∧ State.reset.exMem.ctrl = Ctrl.none ∧
      State.reset.idEx.ctrl = Ctrl.none := by decide

theorem witness_BubblesPropagateDownThePipeline :
    State.reset.idEx.ctrl = Ctrl.none ∧ State.reset.exMem.ctrl = Ctrl.none ∧
      State.reset.ifId = IfId.bubble ∧ State.reset.pcSrc = false ∧ State.reset.stall = false := by decide

theorem witness_EveryStepKeepsTheStateLegal :
    stalled.legal = true ∧ ∃ t, step stalled = .next t := ⟨by decide, _, rfl⟩

theorem witness_LoadAndResetLeaveLegalStates :
    (List.replicate 256 0xFFFF#16).length ≤ 256 ∧ halted.imem.wf = true :=
  ⟨List.length_replicate.le, by decide⟩

theorem witness_LoadInstallsAllWordsOrNone :
    (List.replicate 256 0xFFFF#16).length ≤ 256 ∧ 256 < (List.replicate 257 0xFFFF#16).length := by
  rw [List.length_replicate, List.length_replicate]
  decide

theorem witness_SnapshotShowsTheSignalsOfTheClockJustDone : ([] : List Word).length ≤ 256 := by decide

/-- The program of 95_test_vectors.md section 2.2. -/
theorem witness_PipelineWritesArePrefixesOfSequentialWrites :
    [0x1045#16, 0x3040#16, 0x2080#16, 0x0458#16].length ≤ 256 ∧
      ∃ t, State.reset.load [0x1045#16, 0x3040#16, 0x2080#16, 0x0458#16] = .next t := ⟨by decide, _, rfl⟩

theorem witness_PipelineMakesEverySequentialWriteInTime :
    [0x1045#16, 0x3040#16, 0x2080#16, 0x0458#16].length ≤ 256 ∧
      ∃ t, State.reset.load [0x1045#16, 0x3040#16, 0x2080#16, 0x0458#16] = .next t := ⟨by decide, _, rfl⟩

theorem witness_HaltIdiomLoopsForEverAndDrains :
    halted.imem.read 0x05#8 = 0x4000#16 ∧
      halted.idEx = { pc := 0x05#8, rsVal := 0#16, rtVal := 0#16, imm := 0#16, rs := 0#3, rt := 0#3, dest := 0#3,
                      ctrl := (controlDecode 0x4000#16).ctrl, aluOp := (controlDecode 0x4000#16).aluOp } := by
  decide

end Sys2Proof.Tests
end

/-! PROOFS. The state (10_state.md): what reset, load and the host's reset leave, the invariant that every step
keeps, the bubbles, the cycle counter, the write-first read, and destinations of register 0. -/

namespace Sys2Proof.Machine

/-! ### The host's entry points -/

@[simp] theorem RegFile.zero_cell (k : Fin 8) : RegFile.zero.cells.get k = 0x0000#16 := by
  simp [RegFile.zero, Vector.get_eq_getElem]

/-- A program that fits is installed into the state of a fresh core (rule R141). -/
theorem load_of_length_le (s : State) {words : List Word} (h : words.length ≤ 256) :
    s.load words = .next { State.reset with imem := Memory.ofWords words 0 Memory.empty } :=
  if_pos (decide_eq_true h)

/-- A fresh core is legal with any canonical instruction memory in it. -/
theorem reset_with_imem_legal {m : Memory} (h : m.wf = true) :
    { State.reset with imem := m }.legal = true :=
  (State.legal_iff _).mpr ⟨RegFile.zero_cell 0, h, Memory.empty_wf, rfl, rfl, rfl, .inr rfl⟩

/-- Settles O43: it is a fresh core with the empty instruction memory. -/
theorem resetStateIsLegal : Obligations.ResetStateIsLegal :=
  reset_with_imem_legal Memory.empty_wf

/-- Settles O45: both operations leave a fresh core around a canonical instruction memory. -/
theorem loadAndResetLeaveLegalStates : Obligations.LoadAndResetLeaveLegalStates := by
  constructor
  · intro words s hlen
    exact ⟨_, load_of_length_le s hlen,
      reset_with_imem_legal (Memory.ofWords_wf words 0 _ Memory.empty_wf)⟩
  · intro s himem
    exact reset_with_imem_legal himem

/-- Settles O47, field by field. -/
theorem hostResetClearsAllButTheProgram : Obligations.HostResetClearsAllButTheProgram := by
  intro s
  exact ⟨hostReset_imem s, rfl, RegFile.zero_cell, Memory.empty_read, rfl, rfl, rfl, rfl, rfl, rfl⟩

/-- Settles O48, field by field; the empty program leaves the empty instruction memory. -/
theorem freshCoreIsAllZero : Obligations.FreshCoreIsAllZero :=
  ⟨rfl, RegFile.zero_cell, fun a => ⟨Memory.empty_read a, Memory.empty_read a⟩, rfl, rfl, rfl, rfl, rfl,
    fun s => load_of_length_le s (Nat.zero_le 256)⟩

/-! ### The invariant -/

/-- The control vector of a legal `ID_EX` latch is a row of the table or zero, so EX may pass it on. -/
theorem IdEx.isRow_of_legal {l : IdEx} (h : l.legal = true) : l.ctrl.isRow = true := by
  unfold IdEx.legal at h
  split at h
  next hc => rw [hc]; rfl
  split at h
  next hc => rw [hc]; rfl
  split at h
  next hc => rw [hc]; rfl
  split at h
  next hc => rw [hc]; rfl
  simp only [Bool.and_eq_true] at h
  exact h.1.1

/-- An R-type instruction with a function code of the table leaves a legal latch: evaluating `IdEx.legal` at this
row leaves the test of the ALU selector. -/
theorem idOutput_rType_legal (s : State) {func : AluSel} (hf : func ≠ 0b111#3) (rd rs rt : RegNum) :
    (s.idOutput (rTypeIssue func rd rs rt)).legal = true :=
  bne_iff_ne.mpr hf

/-- ADDI, LW, SW, J and JR leave a legal latch: evaluating `IdEx.legal` at their rows with `ADD` leaves the test
that the destination is `rt`. -/
theorem idOutput_iType_legal (s : State) {c : Ctrl}
    (hc : c ∈ [Ctrl.addi, Ctrl.lw, Ctrl.sw, Ctrl.j, Ctrl.jr]) (rs rt : RegNum) (imm : Int) :
    (s.idOutput (iTypeIssue c 0b000#3 rs rt imm)).legal = true := by
  simp only [List.mem_cons, List.not_mem_nil, or_false] at hc
  rcases hc with rfl | rfl | rfl | rfl | rfl <;> exact beq_self_eq_true rt

/-- What ID leaves of any instruction is legal. -/
theorem idOutput_issueOf_legal (s : State) (i : Instr) : (s.idOutput (issueOf i)).legal = true := by
  cases i with
  | add rd rs rt => exact idOutput_rType_legal s (by decide) rd rs rt
  | sub rd rs rt => exact idOutput_rType_legal s (by decide) rd rs rt
  | and rd rs rt => exact idOutput_rType_legal s (by decide) rd rs rt
  | or rd rs rt => exact idOutput_rType_legal s (by decide) rd rs rt
  | xor rd rs rt => exact idOutput_rType_legal s (by decide) rd rs rt
  | slt rd rs rt => exact idOutput_rType_legal s (by decide) rd rs rt
  | div rd rs rt => exact idOutput_rType_legal s (by decide) rd rs rt
  | addi rt rs imm => exact idOutput_iType_legal s (by decide) rs rt imm
  | lw rt imm rs => exact idOutput_iType_legal s (by decide) rs rt imm
  | sw rt imm rs => exact idOutput_iType_legal s (by decide) rs rt imm
  | beq rs rt imm => exact beq_self_eq_true rt
  | j rs rt imm => exact idOutput_iType_legal s (by decide) rs rt imm
  | jal rs rt imm => rfl
  | jr rs rt imm => exact idOutput_iType_legal s (by decide) rs rt imm

/-- MEM leaves `mem_data` 0 unless the instruction reads memory (rule R92). -/
theorem memAccess_memRead_or_memData (l : ExMem) (m : Memory) :
    (memAccess l m).ctrl.memRead = true ∨ (memAccess l m).memData = 0x0000#16 := by
  by_cases h : l.ctrl.memRead = true
  · exact .inl h
  · exact .inr (if_neg h)

/-- The clock keeps the invariant whenever ID's own output is legal. -/
theorem clock_legal {d : Issue} {s : State} (hs : s.legal = true) (hd : (s.idOutput d).legal = true) :
    (clock d s).legal = true := by
  obtain ⟨hreg, himem, hdmem, hidEx, hexMem, -, -⟩ := s.legal_iff.mp hs
  have hreg' : (clock d s).regs.cells.get 0 = 0x0000#16 := (writeBack_cell_zero s.memWb s.regs).trans hreg
  have hidEx' : (clock d s).idEx.legal = true := by
    rw [clock_idEx]
    split
    · rfl
    · exact hd
  exact (State.legal_iff _).mpr ⟨hreg', himem, memStore_wf s.exMem s.dmem hdmem, hidEx',
    IdEx.isRow_of_legal hidEx, hexMem, memAccess_memRead_or_memData s.exMem s.dmem⟩

/-- Settles O44: a step is the clock of an instruction or of a reserved word, and ID leaves a legal latch in both
cases. -/
theorem everyStepKeepsTheStateLegal : Obligations.EveryStepKeepsTheStateLegal := by
  intro s t hs hstep
  rcases step_cases s with ⟨i, -, hi⟩ | ⟨r, -, hr⟩
  · cases hi.symm.trans hstep
    exact clock_legal hs (idOutput_issueOf_legal s i)
  · cases hr.symm.trans hstep
    exact clock_legal hs rfl

/-! ### An instruction that names register 0 as its destination -/

/-- A latch with destination 0 writes back nothing (rule R91). -/
theorem writeBack_of_dest_zero {l : MemWb} (h : l.dest = 0#3) (r : RegFile) : writeBack l r = r := by
  simp [writeBack, wbEnable, h]

/-- Whether an instruction that goes on from ID redirects `PC` one clock later (rule R96). -/
theorem issue_pcSrc {s : State} {d : Issue} (hp : s.pcSrc = false) (hl : loadUse s.idEx d.rs d.rt = false) :
    (clock d s).pcSrc = redirects d.ctrl (clock d s).aluOut.2 := by
  rw [State.pcSrc, issue_idEx hp hl, idOutput_ctrl]

/-- Decoder outputs under which an instruction can change neither a register nor a cell nor `PC`'s course. -/
structure Issue.DiscardsResult (d : Issue) : Prop where
  dest : d.dest = 0#3
  memWrite : d.ctrl.memWrite = false
  branch : d.ctrl.branch = false
  jump : d.ctrl.jump = false

theorem rTypeIssue_discardsResult (func : AluSel) (rs rt : RegNum) :
    (rTypeIssue func 0 rs rt).DiscardsResult := ⟨rfl, rfl, rfl, rfl⟩

theorem addiIssue_discardsResult (rs : RegNum) (imm : Int) :
    (iTypeIssue Ctrl.addi 0b000#3 rs 0 imm).DiscardsResult := ⟨rfl, rfl, rfl, rfl⟩

theorem lwIssue_discardsResult (rs : RegNum) (imm : Int) :
    (iTypeIssue Ctrl.lw 0b000#3 rs 0 imm).DiscardsResult := ⟨rfl, rfl, rfl, rfl⟩

/-- Such an instruction completes with nothing changed but the index. -/
theorem archAfter_of_discardsResult {s : State} {d : Issue} (hd : d.DiscardsResult) (hp : s.pcSrc = false)
    (hl : loadUse s.idEx d.rs d.rt = false) :
    (clock d s).archAfter = { pc := s.idIndex + 1#8, regs := s.settledRegs, dmem := s.settledDMem } := by
  have hidEx : (clock d s).idEx = s.idOutput d := issue_idEx hp hl
  have hpc : (clock d s).pcSrc = false := by
    rw [issue_pcSrc hp hl, redirects, hd.branch, hd.jump]
    rfl
  have hdmem : (clock d s).settledDMem = s.settledDMem :=
    memStore_of_not_memWrite _ _ (by rw [exOutput_ctrl, hidEx]; exact hd.memWrite)
  have hregs : (clock d s).settledRegs = s.settledRegs :=
    writeBack_of_dest_zero (by rw [memAccess_dest, exOutput_dest, hidEx]; exact hd.dest) _
  rw [State.archAfter, hpc, hdmem, hregs, hidEx]
  rfl

/-- Settles O29: the decoder outputs of each of the nine forms discard the result. -/
theorem destinationZeroDiscardsTheResult : Obligations.DestinationZeroDiscardsTheResult := by
  intro i rs rt imm s _ hp hi
  refine ⟨_, exec_eq_clock i s, ?_⟩
  simp only [List.mem_cons, List.not_mem_nil, or_false] at hi
  rcases hi with ⟨hi, hl⟩ | ⟨hi, hl⟩
  · rcases hi with rfl | rfl | rfl | rfl | rfl | rfl | rfl <;>
      exact archAfter_of_discardsResult (rTypeIssue_discardsResult _ rs rt) hp hl
  · rcases hi with rfl | rfl
    · exact archAfter_of_discardsResult (addiIssue_discardsResult rs imm) hp hl
    · exact archAfter_of_discardsResult (lwIssue_discardsResult rs imm) hp hl

/-! ### One clock: the write-first read, bubbles and the counter -/

/-- The index of the instruction in ID as a sum modulo 256 (rule R100). -/
theorem idIndex_eq_ofNat (s : State) : s.idIndex = BitVec.ofNat 8 (s.ifId.pcPlus1.toNat + 255) := by
  apply BitVec.eq_of_toNat_eq
  rw [State.idIndex, BitVec.toNat_sub, BitVec.toNat_ofNat, BitVec.toNat_ofNat]
  omega

/-- Settles O38: ID reads the register file after this clock's write-back. -/
theorem idReadsTheValueBeingWritten : Obligations.IdReadsTheValueBeingWritten := by
  intro i s hp hl
  obtain ⟨hrs, hrt⟩ := issueOf_fields i
  rw [← hrs, ← hrt] at hl
  refine ⟨_, exec_eq_clock i s, ?_⟩
  rw [issue_idEx hp hl]
  exact ⟨idIndex_eq_ofNat s, hrs, hrt, writeBack_read s.memWb s.regs _, writeBack_read s.memWb s.regs _⟩

/-- The zero `IF_ID` is decoded as the ADD it is, at index `FF` (rules R16, R144). -/
theorem controlDecode_of_ifId_bubble {s : State} (h : s.ifId = IfId.bubble) :
    controlDecode s.fetchWord = rTypeIssue 0b000#3 0 0 0 ∧ s.idIndex = 0xFF#8 := by
  simp only [State.fetchWord, State.idIndex, h]
  decide

/-- Settles O41: a control vector moves on unchanged, and the zero `IF_ID` is no bubble. -/
theorem bubblesPropagateDownThePipeline : Obligations.BubblesPropagateDownThePipeline := by
  constructor
  · intro s
    exact ⟨_, step_eq_clock s, id, id⟩
  · intro s hif hp hst
    obtain ⟨hdec, hidx⟩ := controlDecode_of_ifId_bubble hif
    have hl : loadUse s.idEx (controlDecode s.fetchWord).rs (controlDecode s.fetchWord).rt = false := by
      rw [controlDecode_rs, controlDecode_rt]
      exact hst
    refine ⟨_, step_eq_clock s, ?_⟩
    rw [issue_idEx hp hl, hdec]
    exact ⟨rfl, rfl, hidx⟩

/-- Settles O42, by induction on the number of clocks. -/
theorem cycleCountsEveryClock : Obligations.CycleCountsEveryClock := by
  intro n
  induction n with
  | zero => intro s; rfl
  | succ n ih =>
    intro s
    calc (clocks n s.after).cycle = s.after.cycle + n := ih s.after
      _ = s.cycle + 1 + n := by rw [after_eq_clock, clock_cycle]
      _ = s.cycle + (n + 1) := by omega

end Sys2Proof.Machine

/-! PROOFS. The encoding (30_encoding.md): decoding and encoding are inverse to each other, and the words that are
no instruction are exactly the reserved ones. -/

namespace Sys2Proof

/-! ### From an instruction to its word and back -/

/-- The immediate read from a word of the I format is the one encoded, if it is in range (rule R48). -/
theorem immField_encodeI (op : BitVec 4) (rs rt : RegNum) {imm : Int} (h : immInRange imm = true) :
    immField (encodeI op rs rt imm) = imm := by
  rw [immField, imm6Field_encodeI, imm6_toInt imm h]

/-- Settles O1: the opcode and the function code select the instruction's own arm of the decoder, and every field
reads back as it was encoded. -/
theorem encodedWellFormedInstructionDecodesBack : Obligations.EncodedWellFormedInstructionDecodesBack := by
  intro i hwf
  cases i with
  | add rd rs rt => simp [encode, decode, decodeRType]
  | sub rd rs rt => simp [encode, decode, decodeRType]
  | and rd rs rt => simp [encode, decode, decodeRType]
  | or rd rs rt => simp [encode, decode, decodeRType]
  | xor rd rs rt => simp [encode, decode, decodeRType]
  | slt rd rs rt => simp [encode, decode, decodeRType]
  | div rd rs rt => simp [encode, decode, decodeRType]
  | addi rt rs imm => simp [encode, decode, immField_encodeI _ _ _ hwf]
  | lw rt imm rs => simp [encode, decode, immField_encodeI _ _ _ hwf]
  | sw rt imm rs => simp [encode, decode, immField_encodeI _ _ _ hwf]
  | beq rs rt imm => simp [encode, decode, immField_encodeI _ _ _ hwf]
  | j rs rt imm => simp [encode, decode, immField_encodeI _ _ _ hwf]
  | jal rs rt imm => simp [encode, decode, immField_encodeI _ _ _ hwf]
  | jr rs rt imm => simp [encode, decode, immField_encodeI _ _ _ hwf]

/-- Settles O4: each word, written out bit by bit, is that of its instruction. -/
theorem writtenOutWordsDecode : Obligations.WrittenOutWordsDecode := by
  unfold Obligations.WrittenOutWordsDecode
  decide

/-! ### From a word to its instruction and back -/

/-- A word of opcode 0 is the R format of its own fields (rule R45). -/
theorem encodeR_fields {w : Word} {func : BitVec 3} (hop : opField w = 0b0000#4) (hf : funcField w = func) :
    encodeR (rsField w) (rtField w) (rdField w) func = w := by
  rw [encodeR, ← hop, ← hf, word_of_rFields]

/-- A word is the I format of its own fields (rule R46). -/
theorem encodeI_fields {w : Word} {op : BitVec 4} (hop : opField w = op) :
    encodeI op (rsField w) (rtField w) (immField w) = w := by
  rw [encodeI, imm6_immField, ← hop, word_of_iFields]

/-- The R-type decoder loses no bit of a word of opcode 0. -/
theorem encode_of_decodeRType {w : Word} {i : Instr} (hop : opField w = 0b0000#4)
    (h : decodeRType w = .ok i) : i.wf = true ∧ encode i = w := by
  unfold decodeRType at h
  split at h
  case h_8 => cases h
  all_goals
    next hf =>
      cases h
      exact ⟨rfl, encodeR_fields hop hf⟩

/-- Settles O2: a word is its own fields put together again, in the format of its opcode. -/
theorem decodedWordEncodesBack : Obligations.DecodedWordEncodesBack := by
  intro w i h
  unfold decode at h
  split at h
  case h_1 hop => exact encode_of_decodeRType hop h
  case h_9 => cases h
  all_goals
    next hop =>
      cases h
      exact ⟨immInRange_immField w, encodeI_fields hop⟩

/-! ### The reserved words -/

/-- An opcode of 8 or more is rejected by its number (rule R51). -/
theorem decode_of_reservedOpcode {w : Word} (h : 8 ≤ (opField w).toNat) :
    decode w = .error (.opcode (opField w)) := by
  unfold decode
  split
  case h_9 => rfl
  all_goals
    next hop =>
      rw [hop] at h
      exact absurd h (by decide)

/-- Opcode 0 with function code 7 is rejected (rule R52). -/
theorem decode_of_reservedFunc {w : Word} (hop : opField w = 0b0000#4) (hf : funcField w = 0b111#3) :
    decode w = .error .func := by
  simp [decode, decodeRType, hop, hf]

/-- Any other function code is one of the table (rule R50). -/
theorem exists_decodeRType {w : Word} (hf : funcField w ≠ 0b111#3) : ∃ i, decodeRType w = .ok i := by
  unfold decodeRType
  split
  case h_8 h0 h1 h2 h3 h4 h5 h6 =>
    exfalso
    generalize funcField w = f at *
    revert f
    decide
  all_goals exact ⟨_, rfl⟩

/-- A word that is neither kind of reserved word is an instruction (rules R49, R50). -/
theorem exists_decode {w : Word} (hop : (opField w).toNat < 8)
    (hf : ¬(opField w = 0b0000#4 ∧ funcField w = 0b111#3)) : ∃ i, decode w = .ok i := by
  unfold decode
  split
  case h_1 h0 => exact exists_decodeRType fun h7 => hf ⟨h0, h7⟩
  case h_9 h0 h1 h2 h3 h4 h5 h6 h7 =>
    clear hf
    exfalso
    generalize opField w = o at *
    revert o
    decide
  all_goals exact ⟨_, rfl⟩

/-- Settles O3: the three cases exclude each other and are all there are, so the answer in each case gives every
clause. -/
theorem decodeRejectsExactlyTheReservedWords : Obligations.DecodeRejectsExactlyTheReservedWords := by
  intro w
  rw [← opField, ← funcField]
  by_cases hop : 8 ≤ (opField w).toNat
  · have hne : opField w ≠ 0b0000#4 := fun h0 => by simp [h0] at hop
    simp [decode_of_reservedOpcode hop, hop, hne]
  by_cases hf : opField w = 0b0000#4 ∧ funcField w = 0b111#3
  · simp [decode_of_reservedFunc hf.1 hf.2, hf]
  · obtain ⟨i, hi⟩ := exists_decode (Nat.lt_of_not_le hop) hf
    simp [hi, hop, hf, Nat.lt_of_not_le hop]

end Sys2Proof

namespace Sys2Proof.Machine

/-- A reserved word carries the zero control vector and destination 0 (rule R77). -/
theorem reservedIssue_discardsResult (w : Word) : (reservedIssue w).DiscardsResult := ⟨rfl, rfl, rfl, rfl⟩

/-- Settles O9: ID latches the word's own fields with the zero control vector, and such decoder outputs discard the
result. -/
theorem reservedWordPassesAsABubble : Obligations.ReservedWordPassesAsABubble := by
  intro s r _ hdec hp hst
  have hl : loadUse s.idEx (reservedIssue s.fetchWord).rs (reservedIssue s.fetchWord).rt = false := hst
  refine ⟨clock (reservedIssue s.fetchWord) s, ?_, ?_⟩
  · rw [step_eq_clock, controlDecode_of_error _ r hdec]
  · rw [issue_idEx hp hl]
    exact ⟨rfl, rfl, rfl, rfl, rfl, rfl, rfl,
      archAfter_of_discardsResult (reservedIssue_discardsResult s.fetchWord) hp hl⟩

end Sys2Proof.Machine

/-! PROOFS. The halt idiom (30_encoding.md rule R58, 70_reset_and_hazards.md rule R154): the three clocks of its loop,
and why no clock of it writes anything. -/

namespace Sys2Proof.Machine

/-! ### Runs of clocks -/

theorem clocks_add (m n : Nat) (s : State) : clocks (m + n) s = clocks m (clocks n s) := by
  induction n generalizing s with
  | zero => rfl
  | succ n ih => exact ih s.after

/-- A run has drained if each of its clocks leaves the registers and the data as they are (rule R153). -/
theorem drained_of_invariant {P : State → Prop} (hP : ∀ s, P s → P s.after)
    (hkeep : ∀ s, P s → s.after.regs = s.regs ∧ s.after.dmem = s.dmem) {s : State} (hs : P s) : s.drained := by
  intro n
  induction n generalizing s with
  | zero => exact ⟨rfl, rfl⟩
  | succ n ih =>
    obtain ⟨hregs, hdmem⟩ := ih (hP s hs)
    obtain ⟨hregs', hdmem'⟩ := hkeep s hs
    exact ⟨hregs.trans hregs', hdmem.trans hdmem'⟩

/-! ### What each part of a clock does for the loop -/

/-- Register 0 is never forwarded (rules R83, R84). -/
theorem forwardSel_zero (x : ExMem) (y : MemWb) : forwardSel x y 0#3 = 0b00#2 := by
  have hx : ¬x.writes 0#3 := fun h => h.2.1 h.2.2
  have hy : ¬y.writes 0#3 := fun h => h.2.1 h.2.2
  rw [forwardSel, if_neg hx, if_neg hy]

/-- A branch to its own index: offset 0 is no displacement (rule R94). -/
theorem pcRelative_zero (pc : Index) : pcRelative pc 0x0000#16 = pc := by
  apply BitVec.eq_of_toNat_eq
  have := pc.isLt
  rw [pcRelative, BitVec.add_zero, trunc8_toNat, zext16_toNat]
  omega

/-- A clock in which EX neither redirects nor holds a load lets ID and IF go on (rules R99 to R103). -/
theorem after_of_advances {s : State} (hp : s.pcSrc = false) (hm : s.idEx.ctrl.memRead = false) :
    s.after.pc = nextIndex s.pc ∧ s.after.ifId = s.fetched ∧
      s.after.idEx = s.idOutput (controlDecode s.fetchWord) := by
  have hl (a b : RegNum) : loadUse s.idEx a b = false := by rw [loadUse, hm, Bool.false_and]
  rw [after_eq_clock]
  exact ⟨by simp [hp, hl], by simp [hp, hl], issue_idEx hp (hl _ _)⟩

/-- An instruction in EX that is neither a branch nor a jump does not redirect (rule R96). -/
theorem pcSrc_of_not_transfer {s : State} (hb : s.idEx.ctrl.branch = false) (hj : s.idEx.ctrl.jump = false) :
    s.pcSrc = false := by
  rw [State.pcSrc, redirects, hb, hj, Bool.false_and, Bool.or_false]

/-- A clock in which EX redirects (rules R87, R96). -/
theorem after_of_redirects {s : State} (hp : s.pcSrc = true) :
    s.after.pc = s.target ∧ s.after.ifId = IfId.bubble ∧ s.after.idEx = IdEx.bubble := by
  rw [after_eq_clock]
  exact ⟨by simp [hp], by simp [hp], by simp [hp]⟩

@[simp] theorem after_imem (s : State) : s.after.imem = s.imem := by
  rw [after_eq_clock, clock_imem]

/-! ### The loop -/

/-- What ID leaves of `beq r0, r0, 0` at an index. -/
def haltLatch (h : Index) : IdEx := { IdEx.bubble with pc := h, ctrl := Ctrl.beq, aluOp := 0b001#3 }

theorem controlDecode_halt : controlDecode 0x4000#16 = iTypeIssue Ctrl.beq 0b001#3 0 0 0 := by decide

/-- First clock of the loop: the branch is in EX. -/
structure HaltInEx (h : Index) (s : State) : Prop where
  imem : s.imem.read h = 0x4000#16
  idEx : s.idEx = haltLatch h

/-- Second clock of the loop: the branch has redirected to itself and is fetched again. -/
structure HaltInIf (h : Index) (s : State) : Prop where
  imem : s.imem.read h = 0x4000#16
  pc : s.pc = h
  ifId : s.ifId = IfId.bubble
  idEx : s.idEx = IdEx.bubble

/-- Third clock of the loop: the branch is in ID, and the zero `IF_ID` of the flush is in EX as `add r0, r0, r0`. -/
structure HaltInId (h : Index) (s : State) : Prop where
  imem : s.imem.read h = 0x4000#16
  pc : s.pc = h + 1#8
  ifId : s.ifId = { pcPlus1 := h + 1#8, instr := 0x4000#16 }
  ctrl : s.idEx.ctrl = Ctrl.rType
  dest : s.idEx.dest = 0#3

section Loop
variable {h : Index} {s : State}

/-- The branch is taken: register 0 equals itself, whatever the younger latches hold. -/
theorem HaltInEx.pcSrc (hs : HaltInEx h s) : s.pcSrc = true := by
  have ha : s.operandA = 0x0000#16 := by
    rw [State.operandA, State.forwardA, hs.idEx]
    exact congrArg (forwardMux · _ _ _) (forwardSel_zero _ _)
  have hb : s.regB = 0x0000#16 := by
    rw [State.regB, State.forwardB, hs.idEx]
    exact congrArg (forwardMux · _ _ _) (forwardSel_zero _ _)
  have hbeq : redirects Ctrl.beq (alu 0x0000#16 0x0000#16 0b001#3).2 = true := by decide
  rw [State.pcSrc, State.aluOut, ha, hb, hs.idEx]
  exact hbeq

theorem HaltInEx.target (hs : HaltInEx h s) : s.target = h := by
  rw [State.target, State.branchTarget, hs.idEx]
  exact pcRelative_zero h

theorem HaltInEx.after (hs : HaltInEx h s) : HaltInIf h s.after := by
  obtain ⟨hpc, hifId, hidEx⟩ := after_of_redirects hs.pcSrc
  exact ⟨by rw [after_imem, hs.imem], hpc.trans hs.target, hifId, hidEx⟩

theorem HaltInIf.after (hs : HaltInIf h s) : HaltInId h s.after := by
  have hp : s.pcSrc = false := pcSrc_of_not_transfer (by rw [hs.idEx]; rfl) (by rw [hs.idEx]; rfl)
  obtain ⟨hpc, hifId, hidEx⟩ := after_of_advances hp (by rw [hs.idEx]; rfl)
  rw [(controlDecode_of_ifId_bubble hs.ifId).1] at hidEx
  refine ⟨by rw [after_imem, hs.imem], ?_, ?_, by rw [hidEx]; rfl, by rw [hidEx]; rfl⟩
  · rw [hpc, hs.pc, nextIndex]
  · rw [hifId, State.fetched, hs.pc, hs.imem, nextIndex]

/-- The third clock brings the branch back to EX at its own index. -/
theorem HaltInId.after (hs : HaltInId h s) : HaltInEx h s.after ∧ s.after.pc = h + 2#8 := by
  have hp : s.pcSrc = false := pcSrc_of_not_transfer (by rw [hs.ctrl]; rfl) (by rw [hs.ctrl]; rfl)
  obtain ⟨hpc, -, hidEx⟩ := after_of_advances hp (by rw [hs.ctrl]; rfl)
  have hidx : s.idIndex = h := by rw [State.idIndex, hs.ifId, BitVec.add_sub_cancel]
  have hword : controlDecode s.fetchWord = iTypeIssue Ctrl.beq 0b001#3 0 0 0 := by
    rw [State.fetchWord, hs.ifId, controlDecode_halt]
  refine ⟨⟨by rw [after_imem, hs.imem], ?_⟩, ?_⟩
  · rw [hidEx, hword, State.idOutput, hidx]
    rfl
  · rw [hpc, hs.pc, nextIndex, BitVec.add_assoc]
    rfl

/-- Three clocks bring the branch round. -/
theorem HaltInEx.clocks_three_mul (hs : HaltInEx h s) (n : Nat) : HaltInEx h (clocks (3 * n) s) := by
  induction n generalizing s with
  | zero => exact hs
  | succ n ih => exact ih hs.after.after.after.1

end Loop

/-! ### The loop writes nothing -/

/-- The loop, at any of its three clocks. -/
def HaltLoops (h : Index) (s : State) : Prop := HaltInEx h s ∨ HaltInIf h s ∨ HaltInId h s

/-- The loop, once the instructions older than its branch have completed: neither MEM nor WB has a write to make. -/
structure HaltDrained (h : Index) (s : State) : Prop where
  loops : HaltLoops h s
  memWrite : s.exMem.ctrl.memWrite = false
  exMemDest : s.exMem.dest = 0#3
  memWbDest : s.memWb.dest = 0#3

section Drained
variable {h : Index} {s : State}

theorem HaltLoops.after (hs : HaltLoops h s) : HaltLoops h s.after := by
  rcases hs with hs | hs | hs
  · exact .inr (.inl hs.after)
  · exact .inr (.inr hs.after)
  · exact .inl hs.after.1

/-- Whatever the loop has in EX stores nothing and has destination 0. -/
theorem HaltLoops.idEx (hs : HaltLoops h s) : s.idEx.ctrl.memWrite = false ∧ s.idEx.dest = 0#3 := by
  rcases hs with hs | hs | hs
  · rw [hs.idEx]; exact ⟨rfl, rfl⟩
  · rw [hs.idEx]; exact ⟨rfl, rfl⟩
  · rw [hs.ctrl]; exact ⟨rfl, hs.dest⟩

theorem HaltDrained.after (hs : HaltDrained h s) : HaltDrained h s.after := by
  obtain ⟨hmem, hdest⟩ := hs.loops.idEx
  refine ⟨hs.loops.after, ?_, ?_, ?_⟩ <;> rw [after_eq_clock]
  exacts [hmem, hdest, hs.exMemDest]

theorem HaltDrained.after_keeps (hs : HaltDrained h s) : s.after.regs = s.regs ∧ s.after.dmem = s.dmem := by
  rw [after_eq_clock, clock_regs, clock_dmem, State.regsAfterWb]
  exact ⟨writeBack_of_dest_zero hs.memWbDest _, memStore_of_not_memWrite _ _ hs.memWrite⟩

/-- Two clocks after the branch is in EX everything older has completed, whatever it was. -/
theorem HaltInEx.drained_after_two (hs : HaltInEx h s) : HaltDrained h (clocks 2 s) := by
  have hs1 : HaltInIf h s.after := hs.after
  refine ⟨.inr (.inr hs1.after), ?_, ?_, ?_⟩ <;>
    rw [clocks, clocks, clocks, after_eq_clock s.after]
  · rw [clock_exMem, exOutput_ctrl, hs1.idEx]; rfl
  · rw [clock_exMem, exOutput_dest, hs1.idEx]; rfl
  · rw [clock_memWb, memAccess_dest, after_eq_clock, clock_exMem, exOutput_dest, hs.idEx]; rfl

end Drained

/-- Settles O52: the loop has three clocks that follow each other, and it writes nothing from its third clock on. -/
theorem haltIdiomLoopsForEverAndDrains : Obligations.HaltIdiomLoopsForEverAndDrains := by
  intro s h himem hidEx
  rw [controlDecode_halt] at hidEx
  have hs : HaltInEx h s := ⟨himem, hidEx⟩
  refine ⟨fun n => ?_, drained_of_invariant (P := HaltDrained h) (fun _ => HaltDrained.after)
    (fun _ => HaltDrained.after_keeps) hs.drained_after_two⟩
  have hn : HaltInEx h (clocks (3 * n) s) := hs.clocks_three_mul n
  rw [Nat.add_comm _ 1, Nat.add_comm _ 2, Nat.add_comm _ 3, clocks_add, clocks_add, clocks_add]
  exact ⟨hn.idEx.trans hs.idEx.symm, hn.after.pc, hn.after.after.pc, hn.after.after.after.2⟩

end Sys2Proof.Machine

/-! PROOFS. The ALU (40_alu.md): what each selector computes, in terms of naturals, bits and integers. -/

namespace Sys2Proof.Machine

/-! ### The operation of each selector (rule R21) -/

section Selector
variable (a b : Word)

@[simp] theorem aluResult_add : aluResult 0b000#3 a b = aluAdd a b := rfl
@[simp] theorem aluResult_sub : aluResult 0b001#3 a b = aluSub a b := rfl
@[simp] theorem aluResult_and : aluResult 0b010#3 a b = aluAnd a b := rfl
@[simp] theorem aluResult_or : aluResult 0b011#3 a b = aluOr a b := rfl
@[simp] theorem aluResult_xor : aluResult 0b100#3 a b = aluXor a b := rfl
@[simp] theorem aluResult_slt : aluResult 0b101#3 a b = aluSlt a b := rfl
@[simp] theorem aluResult_div : aluResult 0b110#3 a b = aluDiv a b := rfl
@[simp] theorem aluResult_seven : aluResult 0b111#3 a b = 0x0000#16 := rfl

end Selector

/-! ### Division -/

section Quotient
variable {m n : Int}

/-- Division toward zero of integers on the same side of zero gives no negative quotient. -/
theorem tdiv_nonneg_of_neg_iff_neg (h : m < 0 ↔ n < 0) : 0 ≤ m.tdiv n := by
  by_cases hm : m < 0
  · exact Int.tdiv_nonneg_of_nonpos_of_nonpos hm.le (h.mp hm).le
  · exact Int.tdiv_nonneg (not_lt.mp hm) (not_lt.mp (mt h.mpr hm))

/-- Division toward zero of integers on different sides of zero gives no positive quotient. -/
theorem tdiv_nonpos_of_not_neg_iff_neg (h : ¬(m < 0 ↔ n < 0)) : m.tdiv n ≤ 0 := by
  by_cases hm : m < 0
  · have hn : 0 ≤ n := not_lt.mp fun hn => h (iff_of_true hm hn)
    have hq : 0 ≤ (-m).tdiv n := Int.tdiv_nonneg (neg_nonneg.mpr hm.le) hn
    rwa [Int.neg_tdiv, neg_nonneg] at hq
  · have hn : n < 0 := by_contra fun hn => h (iff_of_false hm hn)
    exact Int.tdiv_nonpos_of_nonneg_of_nonpos (not_lt.mp hm) hn.le

end Quotient

@[simp] theorem aluDiv_zero (a : Word) : aluDiv a 0x0000#16 = 0x0000#16 := rfl

theorem aluDiv_of_ne_zero (a : Word) {b : Word} (hb : b ≠ 0x0000#16) :
    aluDiv a b = BitVec.ofInt 16 (a.toInt.tdiv b.toInt) := if_neg hb

/-- Settles O13: the quotient is that of integer division toward zero, whose magnitude is the quotient of the
magnitudes and whose sign follows from the signs of the operands. -/
theorem aluDivTruncatesTowardZero : Obligations.AluDivTruncatesTowardZero := by
  intro a b
  refine ⟨?zeroDivisor, fun hb => ⟨a.toInt.tdiv b.toInt, ?quotient, ?magnitude, ?positive, ?negative⟩, ?overflow⟩
  case zeroDivisor => rintro rfl; rw [alu_fst, aluResult_div, aluDiv_zero]
  case quotient => rw [alu_fst, aluResult_div, aluDiv_of_ne_zero a hb]
  case magnitude => exact Int.natAbs_tdiv _ _
  case positive => exact fun hq => by_contra fun h => (tdiv_nonpos_of_not_neg_iff_neg h).not_gt hq
  case negative => exact fun hq h => (tdiv_nonneg_of_neg_iff_neg h).not_gt hq
  case overflow => decide

/-! ### The other operations -/

/-- Settles O10: addition and subtraction of words are those of the naturals modulo 65536, and a difference is zero
exactly for equal words. -/
theorem aluAddAndSubWrapModulo65536 : Obligations.AluAddAndSubWrapModulo65536 := by
  intro a b
  refine ⟨?_, ?_, ?_⟩
  · rw [alu_fst, aluResult_add, aluAdd, BitVec.toNat_add]
  · rw [alu_fst, aluResult_sub, aluSub, BitVec.toNat_sub, Nat.add_comm]
  · rw [alu_zero, alu_fst, aluResult_sub, aluSub]
    exact sub_eq_zero

/-- Settles O11, operation by operation. -/
theorem aluBitwiseOperationsActBitByBit : Obligations.AluBitwiseOperationsActBitByBit := by
  intro a b i _
  simp only [alu_fst, aluResult_and, aluResult_or, aluResult_xor, aluAnd, aluOr, aluXor]
  exact ⟨BitVec.getLsbD_and, BitVec.getLsbD_or, BitVec.getLsbD_xor⟩

/-- The signed reading of a word, written out (00_scope.md rule R7). -/
theorem toInt_eq_ite (v : Word) :
    v.toInt = if v.toNat < 32768 then (v.toNat : Int) else v.toNat - 65536 := by
  have hsign : 2 * v.toNat < 2 ^ 16 ↔ v.toNat < 32768 := by omega
  simp only [BitVec.toInt_eq_toNat_cond, hsign]
  rfl

/-- Settles O12: `aluSlt` compares the signed readings. -/
theorem aluSltComparesTrueSignedValues : Obligations.AluSltComparesTrueSignedValues := by
  intro a b
  rw [alu_fst, aluResult_slt, aluSlt, toInt_eq_ite, toInt_eq_ite]

/-- Settles O14: the zero output is defined from the result, which selector 111 leaves at 0. -/
theorem aluZeroOutputAndSelectorSeven : Obligations.AluZeroOutputAndSelectorSeven := by
  intro a b op
  have hzero : (alu a b 0b111#3).2 = true := (alu_zero a b 0b111#3).mpr (aluResult_seven a b)
  exact ⟨alu_zero a b op, Prod.ext (aluResult_seven a b) hzero⟩

end Sys2Proof.Machine

/-! PROOFS. The control decoder (41_control_decoder.md): the row of the table that a word selects, as a vector and as
a number. -/

namespace Sys2Proof.Machine

/-- A reserved word selects the zero vector (rule R77). -/
theorem controlDecode_ctrl_of_isReserved {w : Word} (h : isReserved w = true) :
    (controlDecode w).ctrl = Ctrl.none := by
  rw [controlDecode, if_pos h]

/-- Any other word selects the row of its opcode, whatever its other fields hold (rules R72, R79). -/
theorem controlDecode_ctrl_of_not_isReserved {w : Word} (h : ¬isReserved w = true) :
    (controlDecode w).ctrl = controlRow (opField w) := by
  rw [controlDecode, if_neg h]

/-- A reserved word's vector as a number (rules R77, R78). -/
theorem controlDecode_toBits_of_isReserved {w : Word} (h : isReserved w = true) :
    (controlDecode w).ctrl.toBits = 0x00#8 := by
  rw [controlDecode_ctrl_of_isReserved h, Ctrl.none_toBits]

/-- The number a word's vector is read as is that of its row (rule R78). -/
theorem controlDecode_toBits_of_row {w : Word} {c : Ctrl} {n : BitVec 8} (h : ¬isReserved w = true)
    (hrow : controlRow (opField w) = c) (hbits : c.toBits = n) : (controlDecode w).ctrl.toBits = n := by
  rw [controlDecode_ctrl_of_not_isReserved h, hrow, hbits]

/-- Settles O5, row by row: each opcode selects its row of the table, and the reserved words and the bubbles carry
the zero vector. -/
theorem controlVectorsOfTheTableAsNumbers : Obligations.ControlVectorsOfTheTableAsNumbers :=
  ⟨controlDecode_toBits_of_row (by decide) rfl Ctrl.rType_toBits,
    controlDecode_toBits_of_row (by decide) rfl Ctrl.addi_toBits,
    controlDecode_toBits_of_row (by decide) rfl Ctrl.lw_toBits,
    controlDecode_toBits_of_row (by decide) rfl Ctrl.sw_toBits,
    controlDecode_toBits_of_row (by decide) rfl Ctrl.beq_toBits,
    controlDecode_toBits_of_row (by decide) rfl Ctrl.j_toBits,
    controlDecode_toBits_of_row (by decide) rfl Ctrl.jal_toBits,
    controlDecode_toBits_of_row (by decide) rfl Ctrl.jr_toBits,
    controlDecode_toBits_of_isReserved (by decide), controlDecode_toBits_of_isReserved (by decide),
    Ctrl.none_toBits, Ctrl.none_toBits, Ctrl.none_toBits⟩

end Sys2Proof.Machine

/-! PROOFS. The hazard unit (42_hazard_forwarding.md): the forward selectors, the clock a load-use stall takes, the
redirect that discards, and what a taken transfer costs. -/

namespace Sys2Proof.Machine

/-! ### The forward selectors (rules R83, R84) -/

theorem forwardSel_ne_eleven (x : ExMem) (y : MemWb) (r : RegNum) : forwardSel x y r ≠ 0b11#2 := by
  unfold forwardSel
  split
  · decide
  · split <;> decide

/-- The older writer supplies the value only where the younger does not write the register. -/
theorem forwardSel_of_memWb_writes {x : ExMem} {y : MemWb} {r : RegNum} (hx : ¬x.writes r) (hy : y.writes r) :
    forwardSel x y r = 0b01#2 := by
  rw [forwardSel, if_neg hx, if_pos hy]

/-- Settles O39: both signals are the selector of rule R83, for `rs` and for `rt`. -/
theorem forwardSelectorsPreferTheYoungerWriter : Obligations.ForwardSelectorsPreferTheYoungerWriter := fun s =>
  ⟨rfl, rfl, forwardSel_ne_eleven s.exMem s.memWb s.idEx.rs, forwardSel_ne_eleven s.exMem s.memWb s.idEx.rt⟩

/-- A load in WB with a bubble in MEM forwards its word to whatever operand names its destination. -/
theorem loadedWord_forwarded {x : ExMem} {y : MemWb} {r : RegNum} (hx : x.ctrl = Ctrl.none)
    (hy : y.ctrl = Ctrl.lw) (hdest : y.dest ≠ 0#3) (hr : y.dest = r) :
    forwardSel x y r = 0b01#2 ∧
      ∀ latched, forwardMux (forwardSel x y r) x.aluResult (wbData y) latched = y.memData := by
  have hxw : ¬x.writes r := by rintro ⟨hreg, -⟩; rw [hx] at hreg; cases hreg
  have hyw : y.writes r := ⟨by rw [hy]; rfl, hdest, hr⟩
  have hwb : wbData y = y.memData := by rw [wbData, hy]; rfl
  exact ⟨forwardSel_of_memWb_writes hxw hyw, fun latched => by
    rw [forwardMux_forwardSel, if_neg hxw, if_pos hyw, hwb]⟩

/-! ### The three things a clock can do with the instruction in ID -/

section Clock
variable {s : State} {d : Issue}

/-- A redirect discards it and the fetch, whatever the stall condition says (rules R87, R88). -/
theorem clock_of_redirects (hp : s.pcSrc = true) :
    (clock d s).pc = s.target ∧ (clock d s).ifId = IfId.bubble ∧ (clock d s).idEx = IdEx.bubble :=
  ⟨by simp [hp], by simp [hp], by simp [hp]⟩

/-- A load-use stall holds it and puts a bubble into EX (rule R82). -/
theorem clock_of_holds (hp : s.pcSrc = false) (hl : loadUse s.idEx d.rs d.rt = true) :
    (clock d s).pc = s.pc ∧ (clock d s).ifId = s.ifId ∧ (clock d s).idEx = IdEx.bubble :=
  ⟨by simp [hp, hl], by simp [hp, hl], by simp [hl]⟩

/-- A bubble or an R-type instruction in EX lets it go on (rules R99 to R103). -/
theorem after_of_none_or_rType (hc : s.idEx.ctrl = Ctrl.none ∨ s.idEx.ctrl = Ctrl.rType) :
    s.after.pc = nextIndex s.pc ∧ s.after.ifId = s.fetched ∧
      s.after.idEx = s.idOutput (controlDecode s.fetchWord) := by
  rcases hc with hc | hc <;>
    exact after_of_advances (pcSrc_of_not_transfer (by rw [hc]; rfl) (by rw [hc]; rfl)) (by rw [hc]; rfl)

end Clock

theorem step_eq_after (s : State) : step s = .next s.after := by
  rw [after_eq_clock, step_eq_clock]

@[simp] theorem after_dmem (s : State) : s.after.dmem = memStore s.exMem s.dmem := by
  rw [after_eq_clock, clock_dmem]

@[simp] theorem after_exMem (s : State) : s.after.exMem = s.exOutput := by
  rw [after_eq_clock, clock_exMem]

@[simp] theorem after_memWb (s : State) : s.after.memWb = memAccess s.exMem s.dmem := by
  rw [after_eq_clock, clock_memWb]

/-! ### The load in EX that holds an instruction -/

section Stall
variable {s : State}

/-- The instruction in EX of a stalled legal state is LW (rules R72, R81). -/
theorem load_of_stall (hs : s.legal = true) (hst : s.stall = true) :
    s.idEx.ctrl = Ctrl.lw ∧ s.idEx.dest = s.idEx.rt := by
  obtain ⟨-, -, -, hidEx, -⟩ := s.legal_iff.mp hs
  have hread : s.idEx.ctrl.memRead = true := (Bool.and_eq_true_iff.mp hst).1
  exact s.idEx.legal_load hidEx (.inl hread)

/-- LW is no transfer, so a stalled legal state does not redirect (rule R88). -/
theorem pcSrc_of_stall (hs : s.legal = true) (hst : s.stall = true) : s.pcSrc = false := by
  obtain ⟨hlw, -⟩ := load_of_stall hs hst
  exact pcSrc_of_not_transfer (by rw [hlw]; rfl) (by rw [hlw]; rfl)

/-- The stalled clock, in terms of `after` (rule R82). -/
theorem after_of_stall (hs : s.legal = true) (hst : s.stall = true) :
    s.after.pc = s.pc ∧ s.after.ifId = s.ifId ∧ s.after.idEx = IdEx.bubble := by
  rw [after_eq_clock]
  apply clock_of_holds (pcSrc_of_stall hs hst)
  rw [controlDecode_rs, controlDecode_rt]
  exact hst

/-- The clock after it: the held instruction goes on to EX with its own index. -/
theorem after_after_of_stall_idEx (hs : s.legal = true) (hst : s.stall = true) :
    s.after.after.idEx.pc = s.idIndex ∧ s.after.after.idEx.rs = rsField s.fetchWord ∧
      s.after.after.idEx.rt = rtField s.fetchWord := by
  obtain ⟨-, hifId, hidEx⟩ := after_of_stall hs hst
  obtain ⟨-, -, hidEx'⟩ := after_of_none_or_rType (s := s.after) (.inl (by rw [hidEx]; rfl))
  rw [hidEx', idOutput_pc, idOutput_rs, idOutput_rt, controlDecode_rs, controlDecode_rt, State.idIndex,
    State.fetchWord, hifId]
  exact ⟨rfl, rfl, rfl⟩

/-- The load, in WB by then, has the bubble of the stall behind it in MEM. -/
theorem after_after_of_stall_load (hs : s.legal = true) (hst : s.stall = true) :
    s.after.after.exMem.ctrl = Ctrl.none ∧ s.after.after.memWb.ctrl = Ctrl.lw ∧
      s.after.after.memWb.dest = s.idEx.rt ∧
      s.after.after.memWb.memData = s.after.dmem.read (dataAddress s.after.exMem.aluResult) := by
  obtain ⟨hlw, hdest⟩ := load_of_stall hs hst
  obtain ⟨-, -, hidEx⟩ := after_of_stall hs hst
  refine ⟨?_, ?_, ?_, ?_⟩
  · rw [after_exMem, exOutput_ctrl, hidEx]; rfl
  · rw [after_memWb, memAccess_ctrl, after_exMem, exOutput_ctrl, hlw]
  · rw [after_memWb, memAccess_dest, after_exMem, exOutput_dest, hdest]
  · rw [after_memWb, memAccess]
    exact if_pos (by rw [after_exMem, exOutput_ctrl, hlw]; rfl)

end Stall

/-- Settles O30: the stalled clock leaves a bubble behind the load, so the next clock does not stall, and then the
load is in WB with nothing to forward in MEM. -/
theorem instructionIsHeldByALoadUseStall : Obligations.InstructionIsHeldByALoadUseStall := by
  constructor
  · intro i s hp hl
    obtain ⟨hrs, hrt⟩ := issueOf_fields i
    exact ⟨_, exec_eq_clock i s, clock_of_holds hp (by rw [hrs, hrt]; exact hl)⟩
  · intro s hs hst
    obtain ⟨hlw, hdest⟩ := load_of_stall hs hst
    obtain ⟨hpc, hifId, hidEx⟩ := after_of_stall hs hst
    obtain ⟨hidx, hrs, hrt⟩ := after_after_of_stall_idEx hs hst
    obtain ⟨hbubble, hload, hloadDest, hdata⟩ := after_after_of_stall_load hs hst
    have hst' : s.after.stall = false := by rw [State.stall, hidEx]; rfl
    refine ⟨s.after, s.after.after, step_eq_after s, step_eq_after s.after, hpc, hifId, hidEx, ?ctrl, ?dest, hst',
      hload.trans hlw.symm, hloadDest, hdata, hidx, hrs, hrt, fun h0 h => ?forwardA, fun h0 h => ?forwardB⟩
    case ctrl => rw [after_exMem, exOutput_ctrl]
    case dest => rw [after_exMem, exOutput_dest, hdest]
    case forwardA =>
      obtain ⟨hsel, hmux⟩ := loadedWord_forwarded hbubble hload (by rwa [hloadDest])
        (hloadDest.trans (h.trans hrs.symm))
      exact ⟨hsel, hmux _⟩
    case forwardB =>
      obtain ⟨hsel, hmux⟩ := loadedWord_forwarded hbubble hload (by rwa [hloadDest])
        (hloadDest.trans (h.trans hrt.symm))
      exact ⟨hsel, hmux _⟩

/-- Settles O31: the redirect is tested before the stall, and a load that holds an instruction is no transfer. -/
theorem instructionIsDiscardedByARedirect : Obligations.InstructionIsDiscardedByARedirect := by
  constructor
  · intro i s hp
    exact ⟨_, exec_eq_clock i s, clock_of_redirects hp⟩
  · rintro s hs ⟨hst, hp⟩
    exact Bool.false_ne_true ((pcSrc_of_stall hs hst).symm.trans hp)

/-! ### The clocks after a redirect -/

@[simp] theorem controlDecode_imm (w : Word) : (controlDecode w).imm = sext16 (imm6Field w) := by
  unfold controlDecode
  split <;> rfl

section Transfer
variable {s : State}

/-- In the second clock the target is fetched, and the zero `IF_ID` of the flush goes on to EX as an ADD
(rules R16, R102). -/
theorem clocks_two_of_redirects (hp : s.pcSrc = true) :
    (clocks 2 s).ifId = { pcPlus1 := s.target + 1#8, instr := s.imem.read s.target } ∧
      (clocks 2 s).idEx.ctrl = Ctrl.rType := by
  obtain ⟨hpc, hifId, hidEx⟩ := after_of_redirects hp
  obtain ⟨-, hifId', hidEx'⟩ := after_of_none_or_rType (s := s.after) (.inl (by rw [hidEx]; rfl))
  obtain ⟨hdec, -⟩ := controlDecode_of_ifId_bubble hifId
  constructor
  · calc s.after.after.ifId = s.after.fetched := hifId'
      _ = _ := by rw [State.fetched, hpc, after_imem, nextIndex]
  · calc s.after.after.idEx.ctrl = (controlDecode s.after.fetchWord).ctrl := by rw [hidEx', idOutput_ctrl]
      _ = Ctrl.rType := by rw [hdec]; rfl

/-- In the third clock the target's word is decoded, at its own index (rules R98, R100). -/
theorem clocks_three_of_redirects (hp : s.pcSrc = true) :
    (clocks 3 s).idEx = (clocks 2 s).idOutput (controlDecode (s.imem.read s.target)) ∧
      (clocks 2 s).idIndex = s.target := by
  obtain ⟨hifId, hctrl⟩ := clocks_two_of_redirects hp
  obtain ⟨-, -, hidEx⟩ := after_of_none_or_rType (.inr hctrl)
  constructor
  · calc (clocks 2 s).after.idEx = (clocks 2 s).idOutput (controlDecode (clocks 2 s).fetchWord) := hidEx
      _ = _ := by rw [State.fetchWord, hifId]
  · rw [State.idIndex, hifId, BitVec.add_sub_cancel]

end Transfer

/-- Settles O32: the redirect, the fetch of its target and the decoding of the word fetched, a clock each. -/
theorem takenTransferCostsTwoClocks : Obligations.TakenTransferCostsTwoClocks := by
  intro s hp
  obtain ⟨hpc, hifId, hidEx⟩ := after_of_redirects hp
  obtain ⟨hfetch, -⟩ := clocks_two_of_redirects hp
  obtain ⟨hdecoded, hidx⟩ := clocks_three_of_redirects hp
  refine ⟨hpc, hifId, hidEx, hfetch, ?_⟩
  rw [hdecoded]
  exact ⟨hidx, rfl, rfl, rfl, controlDecode_imm _⟩

end Sys2Proof.Machine

/-! PROOFS. The pipeline controller (43_pipeline_controller.md): the tick of rule R105 is the machine's step, what each
stage of it writes and leaves alone, when a write has arrived, and the signals a snapshot shows. -/

namespace Sys2Proof.Machine

/-! ### The tick of rule R105, latch by latch -/

theorem wbEnable_eq_decide (l : MemWb) : wbEnable l = (l.ctrl.regWrite && decide (l.dest ≠ 0#3)) := by
  rw [Bool.eq_iff_iff, wbEnable_iff, Bool.and_eq_true, decide_eq_true_eq]

/-- The forward selector as the tick writes it, its conditions as booleans (rule R105). -/
theorem forwardSel_eq_ite (x : ExMem) (y : MemWb) (r : RegNum) : forwardSel x y r =
    if x.ctrl.regWrite && decide (x.dest ≠ 0#3) && decide (x.dest = r) then 0b10#2
    else if y.ctrl.regWrite && decide (y.dest ≠ 0#3) && decide (y.dest = r) then 0b01#2
    else 0b00#2 := by
  simp only [forwardSel, Bool.and_eq_true, decide_eq_true_eq, and_assoc]

section Tick
variable (s : State)

theorem tick_regs : (tick s).regs = s.regsAfterWb := by
  rw [State.regsAfterWb, writeBack, wbEnable_eq_decide]
  rfl

theorem tick_exMem : (tick s).exMem = s.exOutput := by
  rw [State.exOutput, State.aluOut, State.operandA, State.regB, State.forwardA, State.forwardB, forwardSel_eq_ite,
    forwardSel_eq_ite]
  rfl

/-- The tick's redirect is read off the `zero` it latches, and its target is the machine's. -/
theorem tick_pc : (tick s).pc = if s.pcSrc then s.target else if s.stall then s.pc else nextIndex s.pc := by
  have hpc : (tick s).pc = if redirects s.idEx.ctrl (tick s).exMem.zero then s.target
      else if s.stall then s.pc else nextIndex s.pc := by
    rw [State.target, State.operandA, State.forwardA, forwardSel_eq_ite]
    rfl
  rw [hpc, tick_exMem]
  rfl

theorem tick_ifId : (tick s).ifId = if s.pcSrc then IfId.bubble else if s.stall then s.ifId else s.fetched := by
  have hifId : (tick s).ifId = if redirects s.idEx.ctrl (tick s).exMem.zero then IfId.bubble
      else if s.stall then s.ifId else s.fetched := rfl
  rw [hifId, tick_exMem]
  rfl

/-- The tick's ID reads the register file the tick leaves. -/
theorem tick_idEx : (tick s).idEx =
    if s.pcSrc || s.stall then IdEx.bubble else s.idOutput (controlDecode s.fetchWord) := by
  have hidEx : (tick s).idEx = if redirects s.idEx.ctrl (tick s).exMem.zero || s.stall then IdEx.bubble
      else { s.idOutput (controlDecode s.fetchWord) with
        rsVal := (tick s).regs.read (controlDecode s.fetchWord).rs
        rtVal := (tick s).regs.read (controlDecode s.fetchWord).rt } := rfl
  rw [hidEx, tick_exMem, tick_regs]
  rfl

end Tick

/-- The hazard unit compares the fields of the word in ID, which the control decoder passes on (rules R71, R81). -/
theorem loadUse_controlDecode (s : State) :
    loadUse s.idEx (controlDecode s.fetchWord).rs (controlDecode s.fetchWord).rt = s.stall := by
  rw [controlDecode_rs, controlDecode_rt, State.stall, State.fetchWord]

/-- The tick of rule R105 is the clock with the control decoder's outputs for the word in ID. -/
theorem tick_eq_clock (s : State) : tick s = clock (controlDecode s.fetchWord) s := by
  calc tick s = { tick s with pc := (tick s).pc, regs := (tick s).regs, ifId := (tick s).ifId,
                              idEx := (tick s).idEx, exMem := (tick s).exMem } := rfl
    _ = clock (controlDecode s.fetchWord) s := by
      rw [tick_pc, tick_regs, tick_ifId, tick_idEx, tick_exMem, ← loadUse_controlDecode]
      rfl

/-- Settles O6: both are the clock with the control decoder's outputs for the word in ID. -/
theorem stepIsTheSpecsTick : Obligations.StepIsTheSpecsTick := by
  intro s
  rw [step_eq_clock, tick_eq_clock]

/-! ### The writes of instructions past ID -/

@[simp] theorem after_regs (s : State) : s.after.regs = writeBack s.memWb s.regs := by
  rw [after_eq_clock, clock_regs, State.regsAfterWb]

/-- Settles O33: the latch of each instruction past ID reaches the stage that writes unchanged but for what the
stages between compute, so the three write-backs and the two stores come in program order. -/
theorem settledValuesArriveInTheRegisterFileAndMemory :
    Obligations.SettledValuesArriveInTheRegisterFileAndMemory := by
  intro s
  constructor
  · calc s.after.after.after.regs
        = writeBack s.after.after.memWb (writeBack s.after.memWb (writeBack s.memWb s.regs)) := by
          rw [after_regs, after_regs, after_regs]
      _ = s.settledRegs := by
          rw [after_memWb, after_memWb, after_exMem, after_dmem, State.settledRegs, State.regsAfterWb]
  · calc s.after.after.dmem = memStore s.after.exMem (memStore s.exMem s.dmem) := by rw [after_dmem, after_dmem]
      _ = s.settledDMem := by rw [after_exMem, State.settledDMem]

/-! ### What WB and MEM write and leave alone -/

/-- A write to a register leaves every other register's cell as it is. -/
theorem RegFile.write_cell_of_ne (r : RegFile) {k : RegNum} {j : Fin 8} (v : Word) (h : k.toFin ≠ j) :
    (r.write k v).cells.get j = r.cells.get j := by
  unfold RegFile.write
  split
  · rfl
  · rw [Vector.get_eq_getElem, Vector.get_eq_getElem]
    exact Vector.getElem_set_ne k.toFin.isLt j.isLt (Fin.val_ne_of_ne h)

/-- A write-back leaves every cell as it is but that of the register its latch writes (rules R91, R107). -/
theorem writeBack_cell_of_not_writes {l : MemWb} (r : RegFile) {j : Fin 8}
    (h : ¬(l.ctrl.regWrite = true ∧ l.dest ≠ 0#3 ∧ l.dest.toFin = j)) :
    (writeBack l r).cells.get j = r.cells.get j := by
  unfold writeBack
  split
  next hen =>
    obtain ⟨hreg, hdest⟩ := (wbEnable_iff l).mp hen
    exact r.write_cell_of_ne _ fun hj => h ⟨hreg, hdest, hj⟩
  next => rfl

/-- The data address is `alu_result` modulo 256 (rules R36, R92). -/
theorem dataAddress_eq_ofNat (v : Word) : dataAddress v = BitVec.ofNat 8 v.toNat := by
  apply BitVec.eq_of_toNat_eq
  rw [dataAddress, trunc8_toNat, BitVec.toNat_ofNat]

/-- Settles O34: WB writes the one register and MEM the one cell, and no stage writes `IMem`. -/
theorem stepChangesAtMostOneRegisterAndOneCell : Obligations.StepChangesAtMostOneRegisterAndOneCell := by
  intro s hwf
  refine ⟨s.after, step_eq_after s, after_imem s, fun k hk => ?register, fun a ha => ?cell⟩
  case register => rw [after_regs, writeBack_cell_of_not_writes s.regs hk]
  case cell =>
    rw [after_dmem, memStore_read _ _ _ hwf, dataAddress_eq_ofNat]
    exact if_neg fun ⟨hw, haddr⟩ => ha ⟨hw, haddr.symm⟩

/-- Settles O35: a step's register file is that of the write-back. -/
theorem writeBackWritesTheSelectedValue : Obligations.WriteBackWritesTheSelectedValue := by
  intro s k
  refine ⟨s.after, step_eq_after s, ?_⟩
  rw [after_regs, writeBack_read]
  exact if_congr (and_congr_right fun _ => and_congr_right fun _ => eq_comm) rfl rfl

/-- Settles O36: the store and the latch output are those of the MEM stage, both on the memory before the edge. -/
theorem memoryStageReadsThenWrites : Obligations.MemoryStageReadsThenWrites := by
  intro s hwf
  refine ⟨s.after, step_eq_after s, fun k => ?store, ?latch⟩
  case store =>
    rw [after_dmem, memStore_read _ _ _ hwf]
    exact if_congr (and_congr_right fun _ => eq_comm) rfl rfl
  case latch => rw [after_memWb, memAccess, dataAddress, trunc8]

/-! ### Latches with the zero control vector, and the bubble in EX -/

/-- Only a writer in MEM is forwarded from there (rules R83, R84). -/
theorem forwardSel_exMem_iff (x : ExMem) (y : MemWb) (r : RegNum) : forwardSel x y r = 0b10#2 ↔ x.writes r := by
  unfold forwardSel
  split
  next hx => exact iff_of_true rfl hx
  next hx => split <;> exact iff_of_false (by decide) hx

/-- Only a writer in WB is forwarded from there, and only past no writer in MEM (rules R83, R84). -/
theorem forwardSel_memWb_iff (x : ExMem) (y : MemWb) (r : RegNum) :
    forwardSel x y r = 0b01#2 ↔ ¬x.writes r ∧ y.writes r := by
  constructor
  · intro h
    unfold forwardSel at h
    split at h
    · exact absurd h (by decide)
    next hx =>
      split at h
      next hy => exact ⟨hx, hy⟩
      · exact absurd h (by decide)
  · exact fun ⟨hx, hy⟩ => forwardSel_of_memWb_writes hx hy

theorem forwardSel_ne_exMem_of_none {x : ExMem} (hx : x.ctrl = Ctrl.none) (y : MemWb) (r : RegNum) :
    forwardSel x y r ≠ 0b10#2 := by
  rw [Ne, forwardSel_exMem_iff, ExMem.writes, hx]
  rintro ⟨hreg, -⟩
  cases hreg

theorem forwardSel_ne_memWb_of_none (x : ExMem) {y : MemWb} (hy : y.ctrl = Ctrl.none) (r : RegNum) :
    forwardSel x y r ≠ 0b01#2 := by
  rw [Ne, forwardSel_memWb_iff, MemWb.writes, hy]
  rintro ⟨-, hreg, -⟩
  cases hreg

/-- Settles O40, latch by latch: each stage acts only on a bit of its own control vector. -/
theorem zeroControlLatchesAreInert : Obligations.ZeroControlLatchesAreInert := by
  intro s
  refine ⟨s.after, step_eq_after s, fun hwb => ⟨?_, ?_, ?_⟩, fun hmem => ⟨?_, ?_, ?_, ?_⟩, fun hex => ⟨?_, ?_⟩⟩
  · rw [after_regs, writeBack_of_not_regWrite _ _ (by rw [hwb]; rfl)]
  · exact forwardSel_ne_memWb_of_none s.exMem hwb s.idEx.rs
  · exact forwardSel_ne_memWb_of_none s.exMem hwb s.idEx.rt
  · rw [after_dmem, memStore_of_not_memWrite _ _ (by rw [hmem]; rfl)]
  · rw [after_memWb, memAccess, hmem]
    rfl
  · exact forwardSel_ne_exMem_of_none hmem s.memWb s.idEx.rs
  · exact forwardSel_ne_exMem_of_none hmem s.memWb s.idEx.rt
  · exact pcSrc_of_not_transfer (by rw [hex]; rfl) (by rw [hex]; rfl)
  · rw [State.stall, loadUse, hex]
    rfl

/-- A bubble in EX has operands 0: nothing is forwarded to register 0 and its latched values are 0 (rule R97). -/
theorem operands_of_idEx_bubble {s : State} (h : s.idEx = IdEx.bubble) :
    s.operandA = 0x0000#16 ∧ s.regB = 0x0000#16 := by
  rw [State.operandA, State.regB, State.forwardA, State.forwardB, h]
  exact ⟨congrArg (forwardMux · _ _ _) (forwardSel_zero _ _), congrArg (forwardMux · _ _ _) (forwardSel_zero _ _)⟩

/-- Settles O37: the ALU adds the bubble's zero operands, and its `zero` output is the one field that is set. -/
theorem bubbleInExLeavesOnlyZeroSet : Obligations.BubbleInExLeavesOnlyZeroSet := by
  intro s h
  obtain ⟨ha, hb⟩ := operands_of_idEx_bubble h
  refine ⟨s.after, step_eq_after s, ?_⟩
  rw [after_exMem, State.exOutput, State.aluOut, State.branchTarget, ha, hb, h]
  decide

/-! ### The instruction in ID and the fetch behind it -/

/-- The third thing a clock can do with the instruction in ID: neither discarded nor held, it goes on, and the fetch
with it (rules R99 to R103). -/
theorem clock_of_issues {s : State} {d : Issue} (hp : s.pcSrc = false) (hl : loadUse s.idEx d.rs d.rt = false) :
    (clock d s).pc = nextIndex s.pc ∧ (clock d s).ifId = s.fetched ∧ (clock d s).idEx = s.idOutput d :=
  ⟨by simp [hp, hl], by simp [hp, hl], issue_idEx hp hl⟩

/-- The step of a word that decodes is the meaning of its instruction (rule R98). -/
theorem step_of_decode {s : State} {i : Instr} (h : decode s.fetchWord = .ok i) : step s = exec i s := by
  rw [step_eq_clock, exec_eq_clock, controlDecode_of_ok _ _ h]

/-- Settles O7: the instruction's fields are those of its word, so the stall signal is the one its clock tests. -/
theorem stepRunsTheDecodedInstruction : Obligations.StepRunsTheDecodedInstruction := by
  intro s i hdec _
  refine ⟨step_of_decode hdec, fun hp hst => ?_⟩
  rw [← loadUse_controlDecode, controlDecode_of_ok _ _ hdec] at hst
  obtain ⟨hpc, hifId, -⟩ := clock_of_issues hp hst
  refine ⟨_, exec_eq_clock i s, ?_, ?_, hpc⟩
  · rw [State.fetchWord, hifId, State.fetched]
  · rw [hifId, State.fetched, nextIndex]

/-! ### The signals of a snapshot -/

/-- A tick keeps the signals of the latches it starts from beside the state it leaves (rules R109, R143). -/
theorem run_tick (e : Engine) : e.run .tick = .next { core := e.core.after, signals := e.core.signals } := by
  rw [Engine.run, step_eq_after, withSignals]

/-- A load that fits leaves the zero signals beside the state it installs (rules R109, R141). -/
theorem run_load {e : Engine} {words : List Word} {s : State} (h : e.core.load words = .next s) :
    e.run (.load words) = .next { core := s, signals := Signals.zero } := by
  rw [Engine.run, h, withSignals]

/-- Settles O49, operation by operation. -/
theorem snapshotShowsTheSignalsOfTheClockJustDone : Obligations.SnapshotShowsTheSignalsOfTheClockJustDone := by
  intro e
  refine ⟨⟨_, run_tick e, step_eq_after e.core, rfl⟩, fun words hlen => ?_, ⟨_, rfl, rfl, rfl⟩⟩
  have hload := load_of_length_le e.core hlen
  exact ⟨_, run_load hload, hload, rfl⟩

end Sys2Proof.Machine

/-! PROOFS. The R-type instructions (44_rtype_instructions.md): an instruction that writes the ALU's result to its
destination and goes on, and the seven operations as arithmetic. -/

namespace Sys2Proof.Machine

/-! ### An instruction that writes the ALU's result -/

/-- A latch with `RegWrite` writes `wb_data` to its destination; one to register 0 is dropped on both sides (rules
R12, R91). -/
theorem writeBack_of_regWrite {l : MemWb} (h : l.ctrl.regWrite = true) (r : RegFile) :
    writeBack l r = r.write l.dest (wbData l) := by
  by_cases hdest : l.dest = 0#3
  · rw [writeBack_of_dest_zero hdest, hdest, RegFile.write_zero]
  · exact if_pos ((wbEnable_iff l).mpr ⟨h, hdest⟩)

/-- Decoder outputs under which an instruction writes the ALU's result to its destination, stores nothing and goes on
to the next index: the rows of the R-type instructions and of ADDI (rule R72). -/
structure Issue.WritesAluResult (d : Issue) : Prop where
  regWrite : d.ctrl.regWrite = true
  memToReg : d.ctrl.memToReg = false
  memWrite : d.ctrl.memWrite = false
  branch : d.ctrl.branch = false
  jump : d.ctrl.jump = false

theorem rTypeIssue_writesAluResult (func : AluSel) (rd rs rt : RegNum) :
    (rTypeIssue func rd rs rt).WritesAluResult := ⟨rfl, rfl, rfl, rfl, rfl⟩

section WritesAluResult
variable {s : State} {d : Issue} {i : Instr}

/-- EX passes on the ALU's result on the settled operands, for an instruction that does not jump (rules R94, R95). -/
theorem issue_aluResult (hs : s.legal = true) (hp : s.pcSrc = false) (hl : loadUse s.idEx d.rs d.rt = false)
    (hj : d.ctrl.jump = false) : (clock d s).exOutput.aluResult =
      aluResult d.aluOp (s.settledRegs.read d.rs) (aluOperandB d.ctrl d.imm (s.settledRegs.read d.rt)) := by
  have hjal : (clock d s).idEx.ctrl.isJal = false := by
    rw [issue_idEx hp hl, idOutput_ctrl, Ctrl.isJal, hj, Bool.false_and]
  calc (clock d s).exOutput.aluResult = (clock d s).aluOut.1 := if_neg (by rw [hjal]; decide)
    _ = _ := by rw [issue_aluOut hs hp hl, alu_fst]

/-- Such an instruction completes with the ALU's result in its destination and nothing else changed but the index. -/
theorem archAfter_of_writesAluResult (hd : d.WritesAluResult) (hs : s.legal = true) (hp : s.pcSrc = false)
    (hl : loadUse s.idEx d.rs d.rt = false) :
    (clock d s).archAfter =
      { pc := s.idIndex + 1#8
        regs := s.settledRegs.write d.dest
          (aluResult d.aluOp (s.settledRegs.read d.rs) (aluOperandB d.ctrl d.imm (s.settledRegs.read d.rt)))
        dmem := s.settledDMem } := by
  have hidEx : (clock d s).idEx = s.idOutput d := issue_idEx hp hl
  have hctrl : (clock d s).idEx.ctrl = d.ctrl := by rw [hidEx, idOutput_ctrl]
  have hpc : (clock d s).pcSrc = false :=
    pcSrc_of_not_transfer (by rw [hctrl, hd.branch]) (by rw [hctrl, hd.jump])
  have hdmem : (clock d s).settledDMem = s.settledDMem :=
    memStore_of_not_memWrite _ _ (by rw [exOutput_ctrl, hctrl, hd.memWrite])
  have hwb : wbData (memAccess (clock d s).exOutput s.settledDMem) = (clock d s).exOutput.aluResult :=
    if_neg (by rw [memAccess_ctrl, exOutput_ctrl, hctrl, hd.memToReg]; decide)
  have hregs : (clock d s).settledRegs = s.settledRegs.write d.dest (clock d s).exOutput.aluResult := by
    rw [issue_settledRegs, writeBack_of_regWrite (by rw [memAccess_ctrl, exOutput_ctrl, hctrl, hd.regWrite]), hwb,
      memAccess_dest, exOutput_dest, hidEx, idOutput_dest]
  rw [State.archAfter, hpc, hdmem, hregs, hidEx, issue_aluResult hs hp hl hd.jump]
  rfl

/-- The meaning of such an instruction, whole: what ID latches, what the instruction leaves once it has completed, and
when the register file and the memory hold that. -/
theorem exec_of_writesAluResult (hi : issueOf i = d) (hd : d.WritesAluResult) (hs : s.legal = true)
    (hp : s.pcSrc = false) (hl : loadUse s.idEx d.rs d.rt = false) {v : Word}
    (hv : aluResult d.aluOp (s.settledRegs.read d.rs) (aluOperandB d.ctrl d.imm (s.settledRegs.read d.rt)) = v) :
    ∃ t, exec i s = .next t ∧ t.imem = s.imem ∧ t.idEx.ctrl = d.ctrl ∧ t.idEx.aluOp = d.aluOp ∧ t.idEx.dest = d.dest ∧
      t.archAfter = { pc := s.idIndex + 1#8, regs := s.settledRegs.write d.dest v, dmem := s.settledDMem } ∧
      (clocks 3 t).regs = t.settledRegs ∧ (clocks 2 t).dmem = t.settledDMem := by
  refine ⟨clock d s, ?next, clock_imem d s, ?ctrl, ?aluOp, ?dest, ?complete,
    settledValuesArriveInTheRegisterFileAndMemory _⟩
  case next => rw [exec_eq_clock, hi]
  case ctrl => rw [issue_idEx hp hl, idOutput_ctrl]
  case aluOp => rw [issue_idEx hp hl, idOutput_aluOp]
  case dest => rw [issue_idEx hp hl, idOutput_dest]
  case complete => rw [archAfter_of_writesAluResult hd hs hp hl, hv]

/-- The meaning of an R-type instruction, whole: operand B is the `rt` register (rule R110). -/
theorem exec_rType {func : AluSel} {rd rs rt : RegNum} (hi : issueOf i = rTypeIssue func rd rs rt)
    (hs : s.legal = true) (hp : s.pcSrc = false) (hl : loadUse s.idEx rs rt = false) {v : Word}
    (hv : aluResult func (s.settledRegs.read rs) (s.settledRegs.read rt) = v) :
    ∃ t, exec i s = .next t ∧ t.imem = s.imem ∧ t.idEx.ctrl = Ctrl.rType ∧ t.idEx.aluOp = func ∧ t.idEx.dest = rd ∧
      t.archAfter = { pc := s.idIndex + 1#8, regs := s.settledRegs.write rd v, dmem := s.settledDMem } ∧
      (clocks 3 t).regs = t.settledRegs ∧ (clocks 2 t).dmem = t.settledDMem :=
  exec_of_writesAluResult hi (rTypeIssue_writesAluResult func rd rs rt) hs hp hl hv

end WritesAluResult

/-! ### The operations as arithmetic on naturals and integers (rules R61, R62) -/

theorem aluAdd_eq_ofNat (a b : Word) : aluAdd a b = BitVec.ofNat 16 (a.toNat + b.toNat) := by
  rw [BitVec.ofNat_add, BitVec.ofNat_toNat, BitVec.ofNat_toNat, BitVec.setWidth_eq, BitVec.setWidth_eq, aluAdd]

theorem aluSub_eq_ofInt (a b : Word) : aluSub a b = BitVec.ofInt 16 (a.toInt - b.toInt) := by
  rw [aluSub, BitVec.sub_eq_add_neg, Int.sub_eq_add_neg, BitVec.ofInt_add, BitVec.ofInt_neg, BitVec.ofInt_toInt,
    BitVec.ofInt_toInt]

/-! ### The seven instructions (rules R111 to R117) -/

/-- Settles O15: the ALU's sum wraps as the naturals' does modulo 65536. -/
theorem addWritesTheWrappedSum : Obligations.AddWritesTheWrappedSum := by
  intro rd rs rt s hs hp hl
  exact ⟨rfl, exec_rType rfl hs hp hl (by rw [aluResult_add, aluAdd_eq_ofNat])⟩

/-- Settles O16: the ALU's difference wraps as the integers' does modulo 65536. -/
theorem subWritesTheWrappedDifference : Obligations.SubWritesTheWrappedDifference := by
  intro rd rs rt s hs hp hl
  exact ⟨rfl, exec_rType rfl hs hp hl (by rw [aluResult_sub, aluSub_eq_ofInt])⟩

/-- Settles O17: selector 010 is AND. -/
theorem andWritesTheBitwiseAnd : Obligations.AndWritesTheBitwiseAnd := by
  intro rd rs rt s hs hp hl
  exact ⟨rfl, exec_rType rfl hs hp hl (by rw [aluResult_and, aluAnd])⟩

/-- Settles O18: selector 011 is OR. -/
theorem orWritesTheBitwiseOr : Obligations.OrWritesTheBitwiseOr := by
  intro rd rs rt s hs hp hl
  exact ⟨rfl, exec_rType rfl hs hp hl (by rw [aluResult_or, aluOr])⟩

/-- Settles O19: selector 100 is XOR. -/
theorem xorWritesTheBitwiseXor : Obligations.XorWritesTheBitwiseXor := by
  intro rd rs rt s hs hp hl
  exact ⟨rfl, exec_rType rfl hs hp hl (by rw [aluResult_xor, aluXor])⟩

/-- Settles O20: selector 101 compares the signed readings. -/
theorem sltWritesTheSignedComparison : Obligations.SltWritesTheSignedComparison := by
  intro rd rs rt s hs hp hl
  exact ⟨rfl, exec_rType rfl hs hp hl (by rw [aluResult_slt, aluSlt])⟩

/-- Settles O21: selector 110 divides the signed readings toward zero, and gives zero for a zero divisor. -/
theorem divWritesTheTruncatedQuotient : Obligations.DivWritesTheTruncatedQuotient := by
  intro rd rs rt s hs hp hl
  exact ⟨rfl, exec_rType rfl hs hp hl (by rw [aluResult_div, aluDiv])⟩

end Sys2Proof.Machine

/-! PROOFS. ADDI, LW and SW (45_immediate_memory_instructions.md): the sum of a register and the immediate, and what an
instruction that goes on to the next index writes with it. -/

namespace Sys2Proof.Machine

/-! ### The sum of a register and the immediate -/

theorem aluAdd_immWord (v : Word) (imm : Int) : aluAdd v (immWord imm) = BitVec.ofInt 16 (v.toInt + imm) :=
  add_immWord v imm

/-- The data address as an integer sum modulo 256 (rules R36, R121). -/
theorem dataAddress_aluAdd_immWord (v : Word) (imm : Int) :
    dataAddress (aluAdd v (immWord imm)) = BitVec.ofInt 8 (v.toInt + imm) := by
  rw [aluAdd_immWord, dataAddress, trunc8_ofInt]

/-- Under `AluSrc` operand B is the immediate (rule R93). -/
theorem aluOperandB_of_aluSrc {c : Ctrl} (h : c.aluSrc = true) (imm regB : Word) : aluOperandB c imm regB = imm :=
  if_pos h

theorem addiIssue_writesAluResult (rs rt : RegNum) (imm : Int) :
    (iTypeIssue Ctrl.addi 0b000#3 rs rt imm).WritesAluResult := ⟨rfl, rfl, rfl, rfl, rfl⟩

/-! ### MEM and WB on a load, and the settled memory -/

/-- What WB writes for a load is the cell at its address as MEM found it (rules R91, R92). -/
theorem wbData_memAccess_of_load {l : ExMem} (h : l.ctrl = Ctrl.lw) (m : Memory) :
    wbData (memAccess l m) = m.read (dataAddress l.aluResult) := by
  have hsel : wbData (memAccess l m) = (memAccess l m).memData := if_pos (by rw [memAccess_ctrl, h]; rfl)
  have hread : (memAccess l m).memData = m.read (dataAddress l.aluResult) := if_pos (by rw [h]; rfl)
  rw [hsel, hread]

/-- The stores of the instructions past ID keep the canonical form. -/
theorem settledDMem_wf {s : State} (hs : s.legal = true) : s.settledDMem.wf = true := by
  obtain ⟨-, -, hdmem, -⟩ := s.legal_iff.mp hs
  exact memStore_wf _ _ (memStore_wf _ _ hdmem)

/-! ### An instruction that goes on from ID -/

section GoesOn
variable {s : State} {d : Issue}

/-- One that is no transfer is followed by the next index (rules R7, R96). -/
theorem archAfter_of_not_transfer (hb : d.ctrl.branch = false) (hj : d.ctrl.jump = false) (hp : s.pcSrc = false)
    (hl : loadUse s.idEx d.rs d.rt = false) :
    (clock d s).archAfter =
      { pc := s.idIndex + 1#8, regs := (clock d s).settledRegs, dmem := (clock d s).settledDMem } := by
  have hidEx : (clock d s).idEx = s.idOutput d := issue_idEx hp hl
  have hpc : (clock d s).pcSrc = false :=
    pcSrc_of_not_transfer (by rw [hidEx, idOutput_ctrl, hb]) (by rw [hidEx, idOutput_ctrl, hj])
  rw [State.archAfter, hpc, hidEx]
  rfl

/-- One without `MemWrite` leaves the data as the older instructions leave it (rule R92). -/
theorem settledDMem_of_not_memWrite (hw : d.ctrl.memWrite = false) (hp : s.pcSrc = false)
    (hl : loadUse s.idEx d.rs d.rt = false) : (clock d s).settledDMem = s.settledDMem := by
  rw [issue_settledDMem, memStore_of_not_memWrite]
  rw [exOutput_ctrl, issue_idEx hp hl, idOutput_ctrl, hw]

/-- One without `RegWrite` leaves the registers as the older instructions leave them (rule R91). -/
theorem settledRegs_of_not_regWrite (hw : d.ctrl.regWrite = false) (hp : s.pcSrc = false)
    (hl : loadUse s.idEx d.rs d.rt = false) : (clock d s).settledRegs = s.settledRegs := by
  rw [issue_settledRegs, writeBack_of_not_regWrite]
  rw [memAccess_ctrl, exOutput_ctrl, issue_idEx hp hl, idOutput_ctrl, hw]

/-- What ID latches of the decoder's outputs (rules R71, R99). -/
theorem issue_control (hp : s.pcSrc = false) (hl : loadUse s.idEx d.rs d.rt = false) :
    (clock d s).idEx.ctrl = d.ctrl ∧ (clock d s).idEx.aluOp = d.aluOp ∧ (clock d s).idEx.dest = d.dest := by
  rw [issue_idEx hp hl, idOutput_ctrl, idOutput_aluOp, idOutput_dest]
  exact ⟨rfl, rfl, rfl⟩

end GoesOn

/-! ### What LW and SW leave once they have completed -/

section LoadStore
variable {s : State} {rs rt : RegNum} {imm : Int}

/-- EX passes on the sum of the settled base register and the immediate, for LW and SW (rules R93 to R95). -/
theorem issue_immediateSum {c : Ctrl} (hsrc : c.aluSrc = true) (hj : c.jump = false) (hs : s.legal = true)
    (hp : s.pcSrc = false) (hl : loadUse s.idEx rs rt = false) :
    (clock (iTypeIssue c 0b000#3 rs rt imm) s).exOutput.aluResult =
      aluAdd (s.settledRegs.read rs) (immWord imm) := by
  rw [issue_aluResult (d := iTypeIssue c 0b000#3 rs rt imm) hs hp hl hj]
  exact congrArg (aluAdd (s.settledRegs.read rs)) (aluOperandB_of_aluSrc hsrc _ _)

/-- LW leaves the settled cell at its address in `rt` (rule R119). -/
theorem settledRegs_of_load (hs : s.legal = true) (hp : s.pcSrc = false) (hl : loadUse s.idEx rs rt = false) :
    (clock (iTypeIssue Ctrl.lw 0b000#3 rs rt imm) s).settledRegs =
      s.settledRegs.write rt (s.settledDMem.read (dataAddress (aluAdd (s.settledRegs.read rs) (immWord imm)))) := by
  obtain ⟨hctrl, -, hdest⟩ := issue_control (d := iTypeIssue Ctrl.lw 0b000#3 rs rt imm) hp hl
  rw [issue_settledRegs, writeBack_of_regWrite (by rw [memAccess_ctrl, exOutput_ctrl, hctrl]; rfl), memAccess_dest,
    exOutput_dest, hdest, wbData_memAccess_of_load (by rw [exOutput_ctrl, hctrl]; rfl),
    issue_immediateSum rfl rfl hs hp hl]
  rfl

/-- SW leaves the settled `rt` register in the cell at its address, and every other cell as it was (rule R120). -/
theorem settledDMem_read_of_store (hs : s.legal = true) (hp : s.pcSrc = false) (hl : loadUse s.idEx rs rt = false)
    (a : Index) : (clock (iTypeIssue Ctrl.sw 0b000#3 rs rt imm) s).settledDMem.read a =
      if a = dataAddress (aluAdd (s.settledRegs.read rs) (immWord imm)) then s.settledRegs.read rt
      else s.settledDMem.read a := by
  obtain ⟨hctrl, -, -⟩ := issue_control (d := iTypeIssue Ctrl.sw 0b000#3 rs rt imm) hp hl
  have hwrite : (clock (iTypeIssue Ctrl.sw 0b000#3 rs rt imm) s).exOutput.ctrl.memWrite = true := by
    rw [exOutput_ctrl, hctrl]
    rfl
  rw [issue_settledDMem, memStore_read _ _ _ (settledDMem_wf hs), issue_immediateSum rfl rfl hs hp hl,
    exOutput_storeData, issue_regB (d := iTypeIssue Ctrl.sw 0b000#3 rs rt imm) hs hp hl]
  exact if_congr ((and_iff_right hwrite).trans eq_comm) rfl rfl

end LoadStore

/-! ### The three instructions (rules R118 to R120) -/

/-- Settles O22: operand B is the immediate, and the ALU's sum with it wraps as the integers' does. -/
theorem addiWritesTheWrappedSum : Obligations.AddiWritesTheWrappedSum := by
  intro rt rs imm s hs hp hl
  exact ⟨rfl, exec_of_writesAluResult (i := .addi rt rs imm) rfl (addiIssue_writesAluResult rs rt imm) hs hp hl
    (aluAdd_immWord (s.settledRegs.read rs) imm)⟩

/-- Settles O23: MEM reads the data as the older stores leave it, and WB writes the cell read. -/
theorem lwLoadsTheWholeCell : Obligations.LwLoadsTheWholeCell := by
  intro rt rs imm s hs hp hl
  obtain ⟨hctrl, haluOp, hdest⟩ := issue_control (d := iTypeIssue Ctrl.lw 0b000#3 rs rt imm) hp hl
  refine ⟨rfl, _, exec_eq_clock (.lw rt imm rs) s, clock_imem _ s, hctrl, haluOp, hdest, ?complete,
    settledValuesArriveInTheRegisterFileAndMemory _⟩
  rw [← dataAddress_aluAdd_immWord, ← settledRegs_of_load hs hp hl,
    ← settledDMem_of_not_memWrite (d := iTypeIssue Ctrl.lw 0b000#3 rs rt imm) rfl hp hl]
  exact archAfter_of_not_transfer rfl rfl hp hl

/-- Settles O24: MEM stores the forwarded `rt` register at the data address of the sum, and WB writes nothing. -/
theorem swStoresTheWholeRegister : Obligations.SwStoresTheWholeRegister := by
  intro rt rs imm s hs hp hl
  obtain ⟨hctrl, haluOp, hdest⟩ := issue_control (d := iTypeIssue Ctrl.sw 0b000#3 rs rt imm) hp hl
  exact ⟨rfl, _, exec_eq_clock (.sw rt imm rs) s, clock_imem _ s, hctrl, haluOp, hdest,
    congrArg Arch.pc (archAfter_of_not_transfer rfl rfl hp hl), settledRegs_of_not_regWrite rfl hp hl,
    settledDMem_read_of_store hs hp hl, settledValuesArriveInTheRegisterFileAndMemory _⟩

end Sys2Proof.Machine

/-! PROOFS. BEQ, J, JAL and JR (46_control_transfer_instructions.md): where the instruction in EX sends `PC`, what it
discards, and the link. -/

namespace Sys2Proof.Machine

/-! ### The target and the link as numbers (rules R94 to R96) -/

/-- The low byte of a register as its value modulo 256 (rule R7). -/
theorem trunc8_eq_ofNat (v : Word) : trunc8 v = BitVec.ofNat 8 v.toNat :=
  dataAddress_eq_ofNat v

/-- The return address has 16 bits and is not masked to 8: `0x0100` at index 255 (rule R95). -/
theorem returnAddress_eq_ofNat (pc : Index) : returnAddress pc = BitVec.ofNat 16 (pc.toNat + 1) := by
  rw [← returnAddress_toNat, BitVec.ofNat_toNat, BitVec.setWidth_eq]

/-- The subtraction BEQ makes says whether its operands are equal (rules R62, R122). -/
theorem alu_sub_zero_iff (a b : Word) : (alu a b 0b001#3).2 = true ↔ a = b := by
  rw [alu_zero, alu_fst, aluResult_sub, aluSub]
  exact sub_eq_zero

/-! ### The redirect of an instruction that goes on from ID -/

section Redirect
variable {s : State} {d : Issue}

/-- What an instruction that goes on leaves: the next index is its target exactly if it redirects (rule R96). -/
theorem issue_archAfter (hp : s.pcSrc = false) (hl : loadUse s.idEx d.rs d.rt = false) :
    (clock d s).archAfter =
      { pc := if (clock d s).pcSrc then (clock d s).target else s.idIndex + 1#8
        regs := (clock d s).settledRegs
        dmem := (clock d s).settledDMem } := by
  rw [State.archAfter, issue_idEx hp hl, idOutput_pc, nextIndex]

/-- An instruction with `Jump` always redirects (rule R96). -/
theorem issue_pcSrc_of_jump (hj : d.ctrl.jump = true) (hp : s.pcSrc = false)
    (hl : loadUse s.idEx d.rs d.rt = false) : (clock d s).pcSrc = true := by
  rw [issue_pcSrc hp hl, redirects, hj, Bool.or_true]

/-- The target of an instruction other than JR is counted from its own index (rules R94, R126). -/
theorem issue_target_of_not_jr {imm : Int} (hjr : d.ctrl.isJr = false) (himm : d.imm = immWord imm)
    (hs : s.legal = true) (hp : s.pcSrc = false) (hl : loadUse s.idEx d.rs d.rt = false) :
    (clock d s).target = BitVec.ofInt 8 (s.idIndex.toNat + imm) := by
  rw [issue_target hs hp hl, if_neg (by rw [hjr]; exact Bool.false_ne_true), himm, pcRelative_immWord]

/-- The target of JR is the low byte of its settled register (rules R76, R125). -/
theorem issue_target_of_jr (hjr : d.ctrl.isJr = true) (hs : s.legal = true) (hp : s.pcSrc = false)
    (hl : loadUse s.idEx d.rs d.rt = false) :
    (clock d s).target = BitVec.ofNat 8 (s.settledRegs.read d.rs).toNat := by
  rw [issue_target hs hp hl, if_pos hjr, trunc8_eq_ofNat]

/-- A jump that stores nothing completes at its target, and the clock after it brings `PC` there and discards the two
younger instructions (rules R87, R96, R126). -/
theorem jump_completes {target : Index} {regs : RegFile} (hj : d.ctrl.jump = true) (hw : d.ctrl.memWrite = false)
    (hp : s.pcSrc = false) (hl : loadUse s.idEx d.rs d.rt = false) (htarget : (clock d s).target = target)
    (hregs : (clock d s).settledRegs = regs) :
    (clock d s).archAfter = { pc := target, regs := regs, dmem := s.settledDMem } ∧
      (clock d s).after.pc = target ∧ (clock d s).after.ifId = IfId.bubble ∧
      (clock d s).after.idEx = IdEx.bubble := by
  have htaken : (clock d s).pcSrc = true := issue_pcSrc_of_jump hj hp hl
  constructor
  · rw [issue_archAfter hp hl, if_pos htaken, htarget, hregs, settledDMem_of_not_memWrite hw hp hl]
  · rw [← htarget]
    exact after_of_redirects htaken

end Redirect

/-! ### What decides BEQ, and what JAL links -/

section BeqJal
variable {s : State} {rs rt : RegNum} {imm : Int}

/-- BEQ redirects exactly if its settled registers are equal (rules R96, R122). -/
theorem pcSrc_beq_iff (hs : s.legal = true) (hp : s.pcSrc = false) (hl : loadUse s.idEx rs rt = false) :
    (clock (issueOf (.beq rs rt imm)) s).pcSrc = true ↔ s.settledRegs.read rs = s.settledRegs.read rt := by
  have hredirects : (clock (issueOf (.beq rs rt imm)) s).pcSrc = (clock (issueOf (.beq rs rt imm)) s).aluOut.2 :=
    (issue_pcSrc hp hl).trans (Bool.or_false _)
  rw [hredirects, issue_aluOut hs hp hl]
  exact alu_sub_zero_iff _ _

/-- JAL leaves its own index plus one in register 7, in place of the ALU's result (rules R75, R95, R124). -/
theorem settledRegs_of_jal (hp : s.pcSrc = false) (hl : loadUse s.idEx rs rt = false) :
    (clock (issueOf (.jal rs rt imm)) s).settledRegs =
      s.settledRegs.write 7#3 (BitVec.ofNat 16 (s.idIndex.toNat + 1)) := by
  have hidEx : (clock (issueOf (.jal rs rt imm)) s).idEx = s.idOutput (issueOf (.jal rs rt imm)) := issue_idEx hp hl
  have hlink : (clock (issueOf (.jal rs rt imm)) s).exOutput.aluResult = returnAddress s.idIndex := by
    rw [State.exOutput, hidEx]
    rfl
  have hwb : wbData (memAccess (clock (issueOf (.jal rs rt imm)) s).exOutput s.settledDMem) =
      returnAddress s.idIndex := by
    rw [wbData, memAccess_ctrl, exOutput_ctrl, hidEx, memAccess_aluResult, hlink]
    rfl
  rw [issue_settledRegs, writeBack_of_regWrite (by rw [memAccess_ctrl, exOutput_ctrl, hidEx]; rfl), hwb,
    memAccess_dest, exOutput_dest, hidEx, returnAddress_eq_ofNat]
  rfl

end BeqJal

/-! ### The four instructions (rules R122 to R125) -/

/-- Settles O25: the next index and the redirect are both decided by the comparison of the settled registers. -/
theorem beqBranchesExactlyOnEqualRegisters : Obligations.BeqBranchesExactlyOnEqualRegisters := by
  intro rs rt imm s hs hp hl
  have htaken := pcSrc_beq_iff (imm := imm) hs hp hl
  have htarget : (clock (issueOf (.beq rs rt imm)) s).target = BitVec.ofInt 8 (s.idIndex.toNat + imm) :=
    issue_target_of_not_jr rfl rfl hs hp hl
  obtain ⟨hctrl, haluOp, -⟩ := issue_control (d := issueOf (.beq rs rt imm)) hp hl
  refine ⟨rfl, _, exec_eq_clock (.beq rs rt imm) s, clock_imem _ s, hctrl, haluOp, ?complete, fun heq => ?redirect,
    fun hne => Bool.eq_false_iff.mpr (mt htaken.mp hne)⟩
  case complete =>
    rw [issue_archAfter hp hl, htarget, settledRegs_of_not_regWrite rfl hp hl, settledDMem_of_not_memWrite rfl hp hl]
    simp only [htaken]
  case redirect =>
    rw [← htarget]
    exact after_of_redirects (htaken.mpr heq)

/-- Settles O26: neither the target nor the control vector depends on the `rs` and `rt` fields. -/
theorem jJumpsRelativeToItself : Obligations.JJumpsRelativeToItself := by
  intro rs rt imm s hs hp hl
  obtain ⟨hctrl, haluOp, -⟩ := issue_control (d := issueOf (.j rs rt imm)) hp hl
  exact ⟨rfl, _, exec_eq_clock (.j rs rt imm) s, clock_imem _ s, hctrl, haluOp,
    jump_completes rfl rfl hp hl (issue_target_of_not_jr rfl rfl hs hp hl) (settledRegs_of_not_regWrite rfl hp hl)⟩

/-- Settles O27: a jump as J is, whose write-back is the link. -/
theorem jalLinksRegisterSevenAndJumps : Obligations.JalLinksRegisterSevenAndJumps := by
  intro rs rt imm s hs hp hl
  obtain ⟨hctrl, haluOp, hdest⟩ := issue_control (d := issueOf (.jal rs rt imm)) hp hl
  obtain ⟨hcomplete, hpc, hifId, hidEx⟩ := jump_completes (d := issueOf (.jal rs rt imm)) rfl rfl hp hl
    (issue_target_of_not_jr rfl rfl hs hp hl) (settledRegs_of_jal hp hl)
  exact ⟨rfl, _, exec_eq_clock (.jal rs rt imm) s, clock_imem _ s, hctrl, haluOp, hdest, hcomplete, hpc, hifId, hidEx,
    settledValuesArriveInTheRegisterFileAndMemory _⟩

/-- Settles O28: a jump as J is, to the forwarded `rs` register in place of the branch target. -/
theorem jrJumpsToTheLowByteOfItsRegister : Obligations.JrJumpsToTheLowByteOfItsRegister := by
  intro rs rt imm s hs hp hl
  obtain ⟨hctrl, haluOp, -⟩ := issue_control (d := issueOf (.jr rs rt imm)) hp hl
  exact ⟨rfl, _, exec_eq_clock (.jr rs rt imm) s, clock_imem _ s, hctrl, haluOp,
    jump_completes rfl rfl hp hl (issue_target_of_jr rfl hs hp hl) (settledRegs_of_not_regWrite rfl hp hl)⟩

end Sys2Proof.Machine

/-! PROOFS. Exceptions (60_exceptions.md): the core raises none, so a step answers a next state from every state. -/

namespace Sys2Proof.Machine

/-- Settles O8: a word in ID either decodes or is reserved, and both run as a clock, which is a total function
(rules R105, R128). -/
theorem stepNeverFaultsNorRefuses : Obligations.StepNeverFaultsNorRefuses := by
  intro s
  obtain ⟨i, -, hstep⟩ | ⟨r, -, hstep⟩ := step_cases s
  · exact ⟨clock (issueOf i) s, hstep⟩
  · exact ⟨clock (reservedIssue s.fetchWord) s, hstep⟩

end Sys2Proof.Machine

/-! PROOFS. Load, and the agreement of the two levels (70_reset_and_hazards.md rules R141, R150, R151): what the load
installs, the effect of an instruction read off its decoder outputs, and where the pipeline stands between two
instructions of one-at-a-time execution. -/

namespace Sys2Proof.Machine

/-! ### What a load installs (rule R141) -/

/-- Each cell from the first index on holds its word of the list, and the old cell where the list has no more. -/
theorem Memory.ofWords_read {words : List Word} {i : Nat} {m : Memory} (hm : m.wf = true)
    (hlen : i + words.length ≤ 256) (a : Index) : (Memory.ofWords words i m).read a =
      if a.toNat < i then m.read a else words.getD (a.toNat - i) (m.read a) := by
  induction words generalizing i m with
  | nil => simp [Memory.ofWords]
  | cons w ws ih =>
    rw [List.length_cons] at hlen
    have hi : (BitVec.ofNat 8 i).toNat = i := Nat.mod_eq_of_lt (show i < 256 by omega)
    have hcell : (m.write (BitVec.ofNat 8 i) w).read a = if i = a.toNat then w else m.read a := by
      rw [Memory.read_write _ _ _ _ hm]
      exact if_congr (by rw [← BitVec.toNat_inj, hi]) rfl rfl
    rw [Memory.ofWords, ih (m.write_wf _ _ hm) (by omega), hcell]
    rcases Nat.lt_trichotomy a.toNat i with hlt | heq | hgt
    · rw [if_pos (by omega), if_neg (by omega), if_pos hlt]
    · rw [if_pos (by omega), if_pos heq.symm, if_neg (by omega), heq, Nat.sub_self, List.getD_cons_zero]
    · obtain ⟨j, hj⟩ : ∃ j, a.toNat - i = j + 1 := ⟨a.toNat - i - 1, by omega⟩
      rw [if_neg (by omega), if_neg (by omega), if_neg (by omega), hj, List.getD_cons_succ]
      congr 1
      omega

/-- A program that does not fit is refused by its length (rule R141). -/
theorem load_of_length_gt (s : State) {words : List Word} (h : 256 < words.length) :
    s.load words = .refused (.programTooLarge words.length) :=
  if_neg fun hfits => Nat.not_le_of_lt h (of_decide_eq_true hfits)

/-- A refusal of the load is the answer of the whole host operation (rule R141). -/
theorem run_load_of_refused {e : Engine} {words : List Word} {r : Refusal} (h : e.core.load words = .refused r) :
    e.run (.load words) = .refused r := by
  rw [Engine.run, h, withSignals]

/-- Settles O46: a program that fits is installed into a fresh core, cell by cell; a longer one is refused. -/
theorem loadInstallsAllWordsOrNone : Obligations.LoadInstallsAllWordsOrNone := by
  intro words s
  constructor
  · intro hlen
    refine ⟨_, load_of_length_le s hlen, fun a => ?_, rfl, RegFile.zero_cell, Memory.empty_read, rfl, rfl, rfl, rfl,
      rfl⟩
    calc (Memory.ofWords words 0 Memory.empty).read a = words.getD (a.toNat - 0) (Memory.empty.read a) := by
          rw [Memory.ofWords_read Memory.empty_wf (by omega), if_neg (Nat.not_lt_zero _)]
      _ = words.getD a.toNat 0x0000#16 := by rw [Nat.sub_zero, Memory.empty_read]
  · intro hlen
    exact ⟨load_of_length_gt s hlen, fun e => run_load_of_refused (load_of_length_gt e.core hlen)⟩

/-! ### The effect of an instruction, read off its decoder outputs -/

section IssueEffect
variable (d : Issue) (a : Arch)

/-- Both outputs of the ALU, for decoder outputs at an architectural state (rules R93, R94). -/
def Issue.aluOut : Word × Bool :=
  alu (a.regs.read d.rs) (aluOperandB d.ctrl d.imm (a.regs.read d.rt)) d.aluOp

/-- What EX passes on: the ALU's result, or the return address (rule R95). -/
def Issue.result : Word := if d.ctrl.isJal then returnAddress a.pc else (d.aluOut a).1

/-- Where a redirect goes (rule R96). -/
def Issue.target : Index := if d.ctrl.isJr then trunc8 (a.regs.read d.rs) else pcRelative a.pc d.imm

/-- What is written to the destination register (rules R91, R92). -/
def Issue.wbValue : Word :=
  if d.ctrl.memToReg then (if d.ctrl.memRead then a.dmem.read (dataAddress (d.result a)) else 0x0000#16)
  else d.result a

/-- The stages EX, MEM and WB as one effect on the architectural state (rules R91 to R96). -/
def Issue.effect : Effect where
  next := if redirects d.ctrl (d.aluOut a).2 then d.target a else nextIndex a.pc
  reg := if d.ctrl.regWrite then some (d.dest, d.wbValue a) else none
  mem := if d.ctrl.memWrite then some (dataAddress (d.result a), a.regs.read d.rt) else none

/-- The stages branch on `zero`, BEQ's own rule on the equality of the registers (rule R122). -/
theorem effect_beq (rs rt : RegNum) (imm : Int) :
    (issueOf (.beq rs rt imm)).effect a = archBeq rs rt imm a := by
  have hnext : ((issueOf (.beq rs rt imm)).effect a).next =
      if (alu (a.regs.read rs) (a.regs.read rt) 0b001#3).2 || false then pcRelative a.pc (immWord imm)
      else nextIndex a.pc := rfl
  have heffect : (issueOf (.beq rs rt imm)).effect a =
      Effect.goto ((issueOf (.beq rs rt imm)).effect a).next := rfl
  rw [heffect, hnext, archBeq, Bool.or_false]
  simp only [alu_sub_zero_iff]
  exact apply_ite Effect.goto _ _ _

/-- What the stages do with an instruction's decoder outputs is what its own rule says (rules R111 to R125). -/
theorem effect_issueOf (i : Instr) : (issueOf i).effect a = archEffect i a := by
  cases i with
  | beq rs rt imm => exact effect_beq a rs rt imm
  | _ => rfl

/-- The effect of a word is what the stages do with the control decoder's outputs for it (rules R51, R52, R79). -/
theorem effect_controlDecode (w : Word) : (controlDecode w).effect a = wordEffect w a := by
  unfold wordEffect
  cases hdec : decode w with
  | ok i => rw [controlDecode_of_ok w i hdec, effect_issueOf]
  | error r => rw [controlDecode_of_error w r hdec]; rfl

end IssueEffect

/-! ### The writes of the instruction that a clock brings to EX -/

theorem regWrites_add (m n : Nat) (s : State) :
    regWrites (m + n) s = regWrites m s ++ regWrites n (clocks m s) := by
  induction m generalizing s with
  | zero => rw [Nat.zero_add]; rfl
  | succ m ih => rw [Nat.add_right_comm, regWrites, regWrites, ih, List.append_assoc]; rfl

theorem memWrites_add (m n : Nat) (s : State) :
    memWrites (m + n) s = memWrites m s ++ memWrites n (clocks m s) := by
  induction m generalizing s with
  | zero => rw [Nat.zero_add]; rfl
  | succ m ih => rw [Nat.add_right_comm, memWrites, memWrites, ih, List.append_assoc]; rfl

theorem regWrites_one (s : State) : regWrites 1 s = s.regWrite?.toList := List.append_nil _

theorem memWrites_one (s : State) : memWrites 1 s = s.memWrite?.toList := List.append_nil _

section IssuedWrites
variable (s : State)

/-- The instruction a clock brings to EX is in WB two clocks later, with the data as MEM found it. -/
theorem clocks_three_memWb : (clocks 3 s).memWb = memAccess s.after.exOutput s.settledDMem := by
  calc s.after.after.after.memWb = memAccess s.after.exOutput (memStore s.exOutput (memStore s.exMem s.dmem)) := by
        rw [after_memWb, after_exMem, after_dmem, after_exMem, after_dmem]
    _ = _ := by rw [State.settledDMem]

/-- It is in MEM one clock later. -/
theorem clocks_two_exMem : (clocks 2 s).exMem = s.after.exOutput := after_exMem s.after

/-- What a latch in WB does to the registers is the write it makes. -/
theorem writeReg?_regWrite? (r : RegFile) : writeReg? s.regWrite? r = writeBack s.memWb r := by
  unfold State.regWrite? writeBack
  split <;> rfl

/-- What a latch in MEM does to the data is the write it makes. -/
theorem writeMem?_memWrite? (m : Memory) : writeMem? s.memWrite? m = memStore s.exMem m := by
  unfold State.memWrite? memStore
  split <;> rfl

/-- A clock changes the settled registers by the write of the instruction it brings to EX. -/
theorem after_settledRegs : s.after.settledRegs = writeReg? (clocks 3 s).regWrite? s.settledRegs := by
  rw [writeReg?_regWrite?, clocks_three_memWb, after_eq_clock, issue_settledRegs]

/-- A clock changes the settled data by the write of the instruction it brings to EX. -/
theorem after_settledDMem : s.after.settledDMem = writeMem? (clocks 2 s).memWrite? s.settledDMem := by
  rw [writeMem?_memWrite?, clocks_two_exMem, after_eq_clock, issue_settledDMem]

/-- What comes to EX with destination 0 and no store writes nothing. -/
theorem writes_eq_none (hdest : s.after.idEx.dest = 0#3) (hw : s.after.idEx.ctrl.memWrite = false) :
    (clocks 3 s).regWrite? = none ∧ (clocks 2 s).memWrite? = none := by
  constructor
  · rw [State.regWrite?, clocks_three_memWb, wbEnable, memAccess_dest, exOutput_dest, hdest]
    exact if_neg (by simp)
  · rw [State.memWrite?, clocks_two_exMem, exOutput_ctrl, hw]
    exact if_neg Bool.false_ne_true

/-- Leaving out a write to register 0 does not change what the write does (rule R12). -/
theorem writeReg?_effect_regWrite? (e : Effect) (r : RegFile) : writeReg? e.regWrite? r = writeReg? e.reg r := by
  unfold Effect.regWrite?
  split
  next k v hreg =>
    rw [hreg]
    split
    next hk => rw [hk]; rfl
    next => rfl
  next hreg => rw [hreg]

end IssuedWrites

/-! ### An instruction that goes on from ID has its effect -/

section HasEffect
variable {s : State} {d : Issue}

/-- What such an instruction hands to MEM, in terms of what it found in ID (rules R93 to R97). -/
theorem issue_exOutput (hs : s.legal = true) (hp : s.pcSrc = false) (hl : loadUse s.idEx d.rs d.rt = false) :
    (clock d s).exOutput.aluResult = d.result s.archBefore ∧
      (clock d s).exOutput.storeData = s.archBefore.regs.read d.rt ∧
      (clock d s).exOutput.dest = d.dest ∧ (clock d s).exOutput.ctrl = d.ctrl := by
  obtain ⟨hctrl, -, hdest⟩ := issue_control hp hl
  refine ⟨?_, issue_regB hs hp hl, hdest, hctrl⟩
  rw [State.exOutput, issue_aluOut hs hp hl, issue_idEx hp hl]
  rfl

/-- Its register write, two clocks after it has come to EX. -/
theorem issue_regWrite? (hd : s.after = clock d s) (hs : s.legal = true) (hp : s.pcSrc = false)
    (hl : loadUse s.idEx d.rs d.rt = false) : (clocks 3 s).regWrite? = (d.effect s.archBefore).regWrite? := by
  obtain ⟨hresult, -, hdest, hctrl⟩ := issue_exOutput hs hp hl
  have hvalue : wbData (memAccess (clock d s).exOutput s.settledDMem) = d.wbValue s.archBefore := by
    rw [wbData, memAccess, hresult, hctrl]
    rfl
  rw [State.regWrite?, clocks_three_memWb, hd, hvalue, wbEnable, memAccess_ctrl, memAccess_dest, hdest, hctrl,
    Effect.regWrite?, Issue.effect]
  cases d.ctrl.regWrite with
  | false => rfl
  | true => by_cases h0 : d.dest = 0#3 <;> simp [h0]

/-- Its data write, one clock after it has come to EX. -/
theorem issue_memWrite? (hd : s.after = clock d s) (hs : s.legal = true) (hp : s.pcSrc = false)
    (hl : loadUse s.idEx d.rs d.rt = false) : (clocks 2 s).memWrite? = (d.effect s.archBefore).mem := by
  obtain ⟨hresult, hstore, -, hctrl⟩ := issue_exOutput hs hp hl
  rw [State.memWrite?, clocks_two_exMem, hd, hresult, hstore, hctrl, Issue.effect]

/-- The index of the next instruction, the clock after (rule R96). -/
theorem issue_next (hs : s.legal = true) (hp : s.pcSrc = false) (hl : loadUse s.idEx d.rs d.rt = false) :
    (d.effect s.archBefore).next =
      if (clock d s).pcSrc then (clock d s).target else nextIndex s.archBefore.pc := by
  rw [issue_pcSrc hp hl, issue_aluOut hs hp hl, issue_target hs hp hl]
  rfl

end HasEffect

/-! ### Where the pipeline stands between two instructions -/

/-- The next instruction of one-at-a-time execution, at an index, is in ID, and the one behind it is being fetched. -/
structure NextInId (i : Index) (s : State) : Prop where
  pcSrc : s.pcSrc = false
  pc : s.pc = nextIndex i
  ifId : s.ifId = { pcPlus1 := nextIndex i, instr := s.imem.read i }

/-- It is being fetched, behind the zero `IF_ID` of a load or a flush. -/
structure NextInIf (i : Index) (s : State) : Prop where
  pc : s.pc = i
  ifId : s.ifId = IfId.bubble
  idEx : s.idEx = IdEx.bubble

/-- A transfer in EX is redirecting `PC` to it. -/
structure NextIsTarget (i : Index) (s : State) : Prop where
  pcSrc : s.pcSrc = true
  target : s.target = i

/-- The three places of the next instruction. -/
def NextAt (i : Index) (s : State) : Prop := NextInId i s ∨ NextInIf i s ∨ NextIsTarget i s

/-- The pipeline has issued exactly the instructions before an architectural state: once they have completed they
leave its registers and data, and the next instruction is the one at its index (rule R150). -/
structure Agrees (imem : Memory) (a : Arch) (s : State) : Prop where
  legal : s.legal = true
  imem : s.imem = imem
  regs : s.settledRegs = a.regs
  dmem : s.settledDMem = a.dmem
  next : NextAt a.pc s

/-- From an architectural state, `n` clocks issue `k` instructions: these are the writes made beside those of the
instructions already past ID, which take three clocks to reach the registers and two to reach the data. -/
structure Issues (imem : Memory) (a : Arch) (s : State) (n k : Nat) : Prop where
  agrees : Agrees imem (archRun imem k a) (clocks n s)
  regWrites : regWrites (n + 3) s = regWrites 3 s ++ archRegWrites imem k a
  memWrites : memWrites (n + 2) s = memWrites 2 s ++ archMemWrites imem k a

theorem after_legal {s : State} (hs : s.legal = true) : s.after.legal = true :=
  everyStepKeepsTheStateLegal s s.after hs (step_eq_after s)

theorem archRegWrites_add (imem : Memory) (j k : Nat) (a : Arch) :
    archRegWrites imem (j + k) a = archRegWrites imem j a ++ archRegWrites imem k (archRun imem j a) := by
  induction j generalizing a with
  | zero => rw [Nat.zero_add]; rfl
  | succ j ih => rw [Nat.add_right_comm, archRegWrites, archRegWrites, ih, List.append_assoc]; rfl

theorem archMemWrites_add (imem : Memory) (j k : Nat) (a : Arch) :
    archMemWrites imem (j + k) a = archMemWrites imem j a ++ archMemWrites imem k (archRun imem j a) := by
  induction j generalizing a with
  | zero => rw [Nat.zero_add]; rfl
  | succ j ih => rw [Nat.add_right_comm, archMemWrites, archMemWrites, ih, List.append_assoc]; rfl

theorem archRun_add (imem : Memory) (j k : Nat) (a : Arch) :
    archRun imem (j + k) a = archRun imem k (archRun imem j a) := by
  induction j generalizing a with
  | zero => rw [Nat.zero_add]; rfl
  | succ j ih => rw [Nat.add_right_comm, archRun, archRun, ih]

section Issues
variable {imem : Memory} {a : Arch} {s : State}

theorem Issues.zero (h : Agrees imem a s) : Issues imem a s 0 0 :=
  ⟨h, (List.append_nil _).symm, (List.append_nil _).symm⟩

/-- Runs follow one another: the writes still under way after the first are the first that the second makes. -/
theorem Issues.trans {m n j k : Nat} (h : Issues imem a s m j)
    (h' : Issues imem (archRun imem j a) (clocks m s) n k) : Issues imem a s (m + n) (j + k) where
  agrees := by rw [archRun_add, Nat.add_comm m n, clocks_add]; exact h'.agrees
  regWrites := by
    rw [Nat.add_assoc, regWrites_add, h'.regWrites, ← List.append_assoc, ← regWrites_add, h.regWrites,
      List.append_assoc, archRegWrites_add]
  memWrites := by
    rw [Nat.add_assoc, memWrites_add, h'.memWrites, ← List.append_assoc, ← memWrites_add, h.memWrites,
      List.append_assoc, archMemWrites_add]

/-- A clock that brings nothing to EX that writes, and leaves the next instruction the same. -/
theorem Agrees.issues_none (h : Agrees imem a s) (hdest : s.after.idEx.dest = 0#3)
    (hw : s.after.idEx.ctrl.memWrite = false) (hnext : NextAt a.pc s.after) : Issues imem a s 1 0 := by
  obtain ⟨hreg, hmem⟩ := writes_eq_none s hdest hw
  refine ⟨⟨after_legal h.legal, (after_imem s).trans h.imem, ?regs, ?dmem, hnext⟩, ?regWrites, ?memWrites⟩
  case regs => rw [clocks, clocks, after_settledRegs, hreg]; exact h.regs
  case dmem => rw [clocks, clocks, after_settledDMem, hmem]; exact h.dmem
  case regWrites => rw [Nat.add_comm, regWrites_add, regWrites_one, hreg]; rfl
  case memWrites => rw [Nat.add_comm, memWrites_add, memWrites_one, hmem]; rfl

/-- A clock that brings to EX an instruction with the writes of the next instruction's effect, and moves on to the
instruction after it. -/
theorem Agrees.issues_one (h : Agrees imem a s) (hreg : (clocks 3 s).regWrite? = (effectAt imem a).regWrite?)
    (hmem : (clocks 2 s).memWrite? = (effectAt imem a).mem) (hnext : NextAt (effectAt imem a).next s.after) :
    Issues imem a s 1 1 := by
  refine ⟨⟨after_legal h.legal, (after_imem s).trans h.imem, ?regs, ?dmem, hnext⟩, ?regWrites, ?memWrites⟩
  case regs => rw [clocks, clocks, after_settledRegs, hreg, writeReg?_effect_regWrite?, h.regs]; rfl
  case dmem => rw [clocks, clocks, after_settledDMem, hmem, h.dmem]; rfl
  case regWrites => rw [Nat.add_comm, regWrites_add, regWrites_one, hreg]; simp [archRegWrites]
  case memWrites => rw [Nat.add_comm, memWrites_add, memWrites_one, hmem]; simp [archMemWrites]

/-! ### What one clock does, by where the next instruction is -/

/-- A redirecting clock discards what is in ID and brings a bubble to EX (rule R87). -/
theorem Agrees.issues_of_target (h : Agrees imem a s) (ht : NextIsTarget a.pc s) :
    Issues imem a s 1 0 ∧ NextInIf a.pc s.after := by
  obtain ⟨hpc, hifId, hidEx⟩ := after_of_redirects ht.pcSrc
  have hnext : NextInIf a.pc s.after := ⟨hpc.trans ht.target, hifId, hidEx⟩
  exact ⟨h.issues_none (by rw [hidEx]; rfl) (by rw [hidEx]; rfl) (.inr (.inl hnext)), hnext⟩

/-- The clock that fetches it brings the zero `IF_ID` to EX, as an ADD that holds nothing in ID (rule R144). -/
theorem Agrees.issues_of_inIf (h : Agrees imem a s) (hf : NextInIf a.pc s) :
    Issues imem a s 1 0 ∧ NextInId a.pc s.after ∧ s.after.stall = false := by
  obtain ⟨hpc, hifId, hidEx⟩ := after_of_none_or_rType (s := s) (.inl (by rw [hf.idEx]; rfl))
  rw [(controlDecode_of_ifId_bubble hf.ifId).1] at hidEx
  have hnext : NextInId a.pc s.after :=
    ⟨pcSrc_of_not_transfer (by rw [hidEx]; rfl) (by rw [hidEx]; rfl), by rw [hpc, hf.pc],
      by rw [hifId, State.fetched, hf.pc, after_imem]⟩
  exact ⟨h.issues_none (by rw [hidEx]; rfl) (by rw [hidEx]; rfl) (.inl hnext), hnext, by rw [State.stall, hidEx]; rfl⟩

/-- A stalled clock holds it in ID behind a bubble, which does not hold it again (rule R82). -/
theorem Agrees.issues_of_stall (h : Agrees imem a s) (hd : NextInId a.pc s) (hst : s.stall = true) :
    Issues imem a s 1 0 ∧ NextInId a.pc s.after ∧ s.after.stall = false := by
  obtain ⟨hpc, hifId, hidEx⟩ := after_of_stall h.legal hst
  have hnext : NextInId a.pc s.after :=
    ⟨pcSrc_of_not_transfer (by rw [hidEx]; rfl) (by rw [hidEx]; rfl), hpc.trans hd.pc,
      by rw [hifId, hd.ifId, after_imem]⟩
  exact ⟨h.issues_none (by rw [hidEx]; rfl) (by rw [hidEx]; rfl) (.inl hnext), hnext, by rw [State.stall, hidEx]; rfl⟩

/-- What the instruction in ID finds is the architectural state, and its word is the one at that index. -/
theorem Agrees.archBefore_eq (h : Agrees imem a s) (hd : NextInId a.pc s) :
    s.archBefore = a ∧ s.fetchWord = imem.read a.pc := by
  constructor
  · rw [State.archBefore, State.idIndex, hd.ifId, h.regs, h.dmem, nextIndex, BitVec.add_sub_cancel]
  · rw [State.fetchWord, hd.ifId, h.imem]

/-- Neither discarded nor held, it goes on to EX with the effect of its own rule (rules R111 to R125). -/
theorem Agrees.issues_of_inId (h : Agrees imem a s) (hd : NextInId a.pc s) (hst : s.stall = false) :
    Issues imem a s 1 1 := by
  obtain ⟨hbefore, hword⟩ := h.archBefore_eq hd
  have heffect : (controlDecode s.fetchWord).effect s.archBefore = effectAt imem a := by
    rw [effect_controlDecode, hbefore, hword, effectAt]
  have hl := (loadUse_controlDecode s).trans hst
  have hafter := after_eq_clock s
  have htarget : (effectAt imem a).next = if s.after.pcSrc then s.after.target else nextIndex a.pc := by
    rw [← heffect, issue_next h.legal hd.pcSrc hl, hafter, hbefore]
  obtain ⟨hpc, hifId, -⟩ := clock_of_issues hd.pcSrc hl
  rw [← hafter] at hpc hifId
  refine h.issues_one ?reg ?mem ?next
  case reg => rw [issue_regWrite? hafter h.legal hd.pcSrc hl, heffect]
  case mem => rw [issue_memWrite? hafter h.legal hd.pcSrc hl, heffect]
  case next =>
    by_cases hp : s.after.pcSrc = true
    · exact .inr (.inr ⟨hp, by rw [htarget, if_pos hp]⟩)
    · have hnext : (effectAt imem a).next = s.pc := by rw [htarget, if_neg hp, hd.pc]
      rw [hnext]
      exact .inl ⟨Bool.eq_false_iff.mpr hp, hpc, by rw [hifId, State.fetched, after_imem]⟩

/-! ### Many clocks, and many instructions -/

/-- Every clock issues the next instruction or none. -/
theorem Agrees.exists_issues_one_clock (h : Agrees imem a s) : ∃ k, Issues imem a s 1 k := by
  rcases h.next with hd | hf | ht
  · cases hst : s.stall with
    | true => exact ⟨0, (h.issues_of_stall hd hst).1⟩
    | false => exact ⟨1, h.issues_of_inId hd hst⟩
  · exact ⟨0, (h.issues_of_inIf hf).1⟩
  · exact ⟨0, (h.issues_of_target ht).1⟩

/-- A fetch behind a bubble takes one clock, and the instruction fetched is not held. -/
theorem Agrees.issues_two_of_inIf (h : Agrees imem a s) (hf : NextInIf a.pc s) : Issues imem a s 2 1 := by
  obtain ⟨hfetch, hd, hst⟩ := h.issues_of_inIf hf
  exact hfetch.trans (hfetch.agrees.issues_of_inId hd hst)

/-- The next instruction is issued within three clocks: a stall costs one, a taken transfer two, never both (rules
R88, R151). -/
theorem Agrees.exists_issues_one (h : Agrees imem a s) : ∃ m, m ≤ 3 ∧ Issues imem a s m 1 := by
  rcases h.next with hd | hf | ht
  · cases hst : s.stall with
    | true =>
      obtain ⟨hheld, hd', hst'⟩ := h.issues_of_stall hd hst
      exact ⟨2, by decide, hheld.trans (hheld.agrees.issues_of_inId hd' hst')⟩
    | false => exact ⟨1, by decide, h.issues_of_inId hd hst⟩
  · exact ⟨2, by decide, h.issues_two_of_inIf hf⟩
  · obtain ⟨hredirect, hf⟩ := h.issues_of_target ht
    exact ⟨3, le_rfl, hredirect.trans (hredirect.agrees.issues_two_of_inIf hf)⟩

/-- Any number of clocks issues some number of instructions. -/
theorem Agrees.exists_issues_clocks (h : Agrees imem a s) (n : Nat) : ∃ k, Issues imem a s n k := by
  induction n with
  | zero => exact ⟨0, .zero h⟩
  | succ n ih =>
    obtain ⟨j, hj⟩ := ih
    obtain ⟨k, hk⟩ := hj.agrees.exists_issues_one_clock
    exact ⟨j + k, hj.trans hk⟩

/-- Any number of instructions is issued in three clocks each. -/
theorem Agrees.exists_issues_instructions (h : Agrees imem a s) (k : Nat) :
    ∃ m, m ≤ 3 * k ∧ Issues imem a s m k := by
  induction k with
  | zero => exact ⟨0, le_rfl, .zero h⟩
  | succ k ih =>
    obtain ⟨m, hm, hk⟩ := ih
    obtain ⟨n, hn, hone⟩ := hk.agrees.exists_issues_one
    exact ⟨m + n, by omega, hk.trans hone⟩

end Issues

/-! ### From a load (rules R150, R151) -/

theorem regWrites_prefix {m n : Nat} (h : m ≤ n) (s : State) : regWrites m s <+: regWrites n s := by
  obtain ⟨j, rfl⟩ := Nat.exists_eq_add_of_le h
  rw [regWrites_add]
  exact List.prefix_append _ _

theorem memWrites_prefix {m n : Nat} (h : m ≤ n) (s : State) : memWrites m s <+: memWrites n s := by
  obtain ⟨j, rfl⟩ := Nat.exists_eq_add_of_le h
  rw [memWrites_add]
  exact List.prefix_append _ _

/-- With destination 0 in WB, MEM and EX, three clocks write no register (rules R12, R91). -/
theorem regWrites_three_of_dest_zero {s : State} (hwb : s.memWb.dest = 0#3) (hmem : s.exMem.dest = 0#3)
    (hex : s.idEx.dest = 0#3) : regWrites 3 s = [] := by
  have hnone {t : State} (h : t.memWb.dest = 0#3) : t.regWrite? = none := by
    simp [State.regWrite?, wbEnable, h]
  rw [regWrites, regWrites, regWrites, hnone hwb, hnone (by rw [after_memWb, memAccess_dest, hmem]),
    hnone (by rw [after_memWb, memAccess_dest, after_exMem, exOutput_dest, hex])]
  rfl

/-- With no store in MEM or EX, two clocks store nothing (rule R92). -/
theorem memWrites_two_of_not_memWrite {s : State} (hmem : s.exMem.ctrl.memWrite = false)
    (hex : s.idEx.ctrl.memWrite = false) : memWrites 2 s = [] := by
  rw [memWrites, memWrites, State.memWrite?, State.memWrite?, after_exMem, exOutput_ctrl, hmem, hex]
  rfl

/-- What a load that is not refused leaves, and that it is the start of one-at-a-time execution with nothing under
way: bubbles make no write (rules R28, R141, R144). -/
theorem agrees_of_load {words : List Word} {s t : State} (hlen : words.length ≤ 256) (ht : s.load words = .next t) :
    Agrees t.imem Arch.start t ∧ regWrites 3 t = [] ∧ memWrites 2 t = [] := by
  cases (load_of_length_le s hlen).symm.trans ht
  exact ⟨⟨reset_with_imem_legal (Memory.ofWords_wf words 0 _ Memory.empty_wf), rfl, rfl, rfl,
    .inr (.inl ⟨rfl, rfl, rfl⟩)⟩,
    regWrites_three_of_dest_zero rfl rfl rfl, memWrites_two_of_not_memWrite rfl rfl⟩

/-- Settles O50: the writes of `n` clocks begin those of the instructions that `n` clocks issue. -/
theorem pipelineWritesArePrefixesOfSequentialWrites :
    Obligations.PipelineWritesArePrefixesOfSequentialWrites := by
  intro words s t hlen ht n
  obtain ⟨hagrees, hreg, hmem⟩ := agrees_of_load hlen ht
  obtain ⟨k, hk⟩ := hagrees.exists_issues_clocks n
  refine ⟨k, ?_, ?_⟩
  · have hall : regWrites (n + 3) t = archRegWrites t.imem k Arch.start := by rw [hk.regWrites, hreg, List.nil_append]
    exact hall ▸ regWrites_prefix (Nat.le_add_right n 3) t
  · have hall : memWrites (n + 2) t = archMemWrites t.imem k Arch.start := by rw [hk.memWrites, hmem, List.nil_append]
    exact hall ▸ memWrites_prefix (Nat.le_add_right n 2) t

/-- Settles O51: the first `k` instructions are issued in `3 * k` clocks, and at most three clocks later their writes
have been made. -/
theorem pipelineMakesEverySequentialWriteInTime : Obligations.PipelineMakesEverySequentialWriteInTime := by
  intro words s t hlen ht k
  obtain ⟨hagrees, hreg, hmem⟩ := agrees_of_load hlen ht
  cases k with
  | zero => exact ⟨List.nil_prefix, List.nil_prefix⟩
  | succ k =>
    obtain ⟨m, hm, hk⟩ := hagrees.exists_issues_instructions (k + 1)
    constructor
    · have hall : regWrites (m + 3) t = archRegWrites t.imem (k + 1) Arch.start := by
        rw [hk.regWrites, hreg, List.nil_append]
      exact hall ▸ regWrites_prefix (by omega) t
    · have hall : memWrites (m + 2) t = archMemWrites t.imem (k + 1) Arch.start := by
        rw [hk.memWrites, hmem, List.nil_append]
      exact hall ▸ memWrites_prefix (by omega) t

end Sys2Proof.Machine
